-- ==== Sys2Proof/Word.lean ====
section
/-! DEFINITION. Sys2Proof/Word.lean: the two widths of the block (spec/00_scope.md rules R11 and R13).

Every value of the block is unsigned: a byte on the wire, a command id and a delimiter are `u8`;
the accumulator, every CRC value and a declared length are `u16`. -/

namespace Sys2Proof

/-- A `u8` of the spec (R13): a byte on the wire, a command id, a delimiter, an operation code. -/
abbrev Byte := BitVec 8

/-- A `u16` of the spec (R13): `crc_acc`, a CRC value, a declared length. -/
abbrev Word := BitVec 16

end Sys2Proof
end

