-- ==== Sys2Proof/Syntax.lean ====
section
/-! DEFINITION. Sys2Proof/Syntax.lean: the host operations of the block (spec/30_encoding.md rule R81),
one constructor per row of spec/opcode_table.json, with the operands R81 and R82 give them. -/

namespace Sys2Proof

/-- A host operation with its operands.  Operands are values (R82): `b`, `cmd` and `expect` may be any of the
256 bytes, and `payload` is a byte list of any length, an over-long one being a legal operand. -/
inductive Instr where
  /-- CRC_CLEAR, code 0x10 (R107). -/
  | crcClear
  /-- CRC_BYTE, code 0x11 (R108). -/
  | crcByte (b : Byte)
  /-- CRC_READ, code 0x12 (R109). -/
  | crcRead
  /-- TX_ENCODE_SIMPLE, code 0x20 (R136). -/
  | txEncodeSimple (cmd : Byte) (payload : List Byte)
  /-- TX_ENCODE_EXT, code 0x21 (R137). -/
  | txEncodeExt (cmd : Byte) (payload : List Byte)
  /-- TX_ENCODE_TLM, code 0x22 (R138); `cmd` is the packet id. -/
  | txEncodeTlm (cmd : Byte) (payload : List Byte)
  /-- RX_DECODE_SIMPLE, code 0x30 (R181). -/
  | rxDecodeSimple
  /-- RX_DECODE_EXT, code 0x31 (R182). -/
  | rxDecodeExt
  /-- RX_DECODE_TLM, code 0x32 (R183). -/
  | rxDecodeTlm
  /-- RX_DECODE_SIMPLE_EXP, code 0x34 (R184). -/
  | rxDecodeSimpleExp (expect : Byte)
  /-- RX_DECODE_EXT_EXP, code 0x35 (R185). -/
  | rxDecodeExtExp (expect : Byte)
  /-- RX_DECODE_TLM_EXP, code 0x36 (R186). -/
  | rxDecodeTlmExp (expect : Byte)
  /-- RX_STATUS, code 0x40 (R178). -/
  | rxStatus
  deriving DecidableEq, Repr

/-- The mnemonics of R81, which name the operation codes that are not reserved. -/
inductive OpCode where
  | crcClear
  | crcByte
  | crcRead
  | txEncodeSimple
  | txEncodeExt
  | txEncodeTlm
  | rxDecodeSimple
  | rxDecodeExt
  | rxDecodeTlm
  | rxDecodeSimpleExp
  | rxDecodeExtExp
  | rxDecodeTlmExp
  | rxStatus
  deriving DecidableEq, Repr

end Sys2Proof
end

