-- ==== Sys2Proof/WellFormed.lean ====
section
/-! DEFINITION. Sys2Proof/WellFormed.lean: which requests are host operations.

Every term of `Instr` is well formed by its type: R82 makes all 256 values of a byte operand and payloads of
any length legal.  What can be ill formed is a REQUEST, the bytes a host hands over: the operation code and
then its operands (assumption log 2).  The check below is written from R81's description of the code's BIT
FIELDS, while `decode` is written from R81's TABLE, so that each can be held against the other. -/

namespace Sys2Proof

/-- The operand lists that R81 gives its operations. -/
inductive OperandShape where
  /-- "none". -/
  | empty
  /-- One byte: `b` or `expect`. -/
  | byte
  /-- `cmd` and then a payload of any length. -/
  | bytePayload
  deriving DecidableEq, Repr

/-- The operand list of an operation code, from its bit fields (R81): `op[7:4]` selects the unit; in the TX unit
`op[1:0]` is the variant and `op[3:2]` is 00; in the RX unit `op[1:0]` is the variant, `op[2]` (EXP) says that an
expected id is present and `op[3]` is 0; in the CRC and status units `op[3:0]` selects the operation.
Variant 3 and every other unit are reserved (R83): `none`. -/
def operandShape (op : Byte) : Option OperandShape :=
  let unit := op.extractLsb' 4 4
  let select := op.extractLsb' 0 4
  let variant := op.extractLsb' 0 2
  let exp := op.getLsbD 2
  let top := op.getLsbD 3
  if unit = 1#4 then
    if select = 0#4 then some .empty
    else if select = 1#4 then some .byte
    else if select = 2#4 then some .empty
    else none
  else if unit = 2#4 then
    if top = false ∧ exp = false ∧ variant ≠ 3#2 then some .bytePayload else none
  else if unit = 3#4 then
    if top = false ∧ variant ≠ 3#2 then some (if exp then .byte else .empty) else none
  else if unit = 4#4 then
    if select = 0#4 then some .empty else none
  else none

/-- Whether an operand list has a shape. -/
def OperandShape.fits : OperandShape → List Byte → Bool
  | .empty, args => args.isEmpty
  | .byte, args => args.length == 1
  | .bytePayload, args => !args.isEmpty

/-- A request is well formed when its code is not reserved and its operands are those of the code (R81 to R83). -/
def requestWf : List Byte → Bool
  | [] => false
  | op :: args =>
    match operandShape op with
    | none => false
    | some shape => shape.fits args

end Sys2Proof
end

