-- ==== Sys2Proof/Decode.lean ====
section
/-! DEFINITION. Sys2Proof/Decode.lean: from a request's bytes to an operation, and back.

A request is what a host hands the block for one operation: the 8-bit operation code and then the operands'
bytes, the payload last and as long as the request is (assumption log 2; the codes are R81's). -/

namespace Sys2Proof

/-- Why a request is no operation. -/
inductive DecodeError where
  /-- An empty request: it has no operation code. -/
  | noOpcode
  /-- The code is reserved (R83). -/
  | reservedOp (op : Byte)
  /-- The code is listed, and the operands are not the ones R81 gives it. -/
  | operandCount (op : Byte)
  deriving DecidableEq, Repr

/-- The operation code of a mnemonic (the first two columns of R81's table). -/
def OpCode.code : OpCode → Byte
  | .crcClear => 0x10#8
  | .crcByte => 0x11#8
  | .crcRead => 0x12#8
  | .txEncodeSimple => 0x20#8
  | .txEncodeExt => 0x21#8
  | .txEncodeTlm => 0x22#8
  | .rxDecodeSimple => 0x30#8
  | .rxDecodeExt => 0x31#8
  | .rxDecodeTlm => 0x32#8
  | .rxDecodeSimpleExp => 0x34#8
  | .rxDecodeExtExp => 0x35#8
  | .rxDecodeTlmExp => 0x36#8
  | .rxStatus => 0x40#8

/-- The mnemonic of an operation code, read from the same table; every code outside it is reserved (R83): `none`. -/
def OpCode.ofByte (op : Byte) : Option OpCode :=
  match op.toNat with
  | 0x10 => some .crcClear
  | 0x11 => some .crcByte
  | 0x12 => some .crcRead
  | 0x20 => some .txEncodeSimple
  | 0x21 => some .txEncodeExt
  | 0x22 => some .txEncodeTlm
  | 0x30 => some .rxDecodeSimple
  | 0x31 => some .rxDecodeExt
  | 0x32 => some .rxDecodeTlm
  | 0x34 => some .rxDecodeSimpleExp
  | 0x35 => some .rxDecodeExtExp
  | 0x36 => some .rxDecodeTlmExp
  | 0x40 => some .rxStatus
  | _ => none

/-- The operands of an operation that has none. -/
def noOperand (i : Instr) : List Byte → Option Instr
  | [] => some i
  | _ :: _ => none

/-- The operands of an operation that has one byte. -/
def byteOperand (mk : Byte → Instr) : List Byte → Option Instr
  | [b] => some (mk b)
  | _ => none

/-- The operands of an operation that has a command id and a payload of any length (R82). -/
def payloadOperand (mk : Byte → List Byte → Instr) : List Byte → Option Instr
  | [] => none
  | cmd :: payload => some (mk cmd payload)

/-- The operation of a mnemonic with its operands (the third column of R81's table); `none` where the operands are not
the ones the table gives. -/
def decodeOperands (o : OpCode) (args : List Byte) : Option Instr :=
  match o with
  | .crcClear => noOperand .crcClear args
  | .crcByte => byteOperand .crcByte args
  | .crcRead => noOperand .crcRead args
  | .txEncodeSimple => payloadOperand .txEncodeSimple args
  | .txEncodeExt => payloadOperand .txEncodeExt args
  | .txEncodeTlm => payloadOperand .txEncodeTlm args
  | .rxDecodeSimple => noOperand .rxDecodeSimple args
  | .rxDecodeExt => noOperand .rxDecodeExt args
  | .rxDecodeTlm => noOperand .rxDecodeTlm args
  | .rxDecodeSimpleExp => byteOperand .rxDecodeSimpleExp args
  | .rxDecodeExtExp => byteOperand .rxDecodeExtExp args
  | .rxDecodeTlmExp => byteOperand .rxDecodeTlmExp args
  | .rxStatus => noOperand .rxStatus args

/-- The operation a request stands for (R81 to R83). -/
def decode : List Byte → Except DecodeError Instr
  | [] => .error .noOpcode
  | op :: args =>
    match OpCode.ofByte op with
    | none => .error (.reservedOp op)
    | some o =>
      match decodeOperands o args with
      | some i => .ok i
      | none => .error (.operandCount op)

/-- The mnemonic of an operation. -/
def Instr.opCode : Instr → OpCode
  | .crcClear => .crcClear
  | .crcByte _ => .crcByte
  | .crcRead => .crcRead
  | .txEncodeSimple _ _ => .txEncodeSimple
  | .txEncodeExt _ _ => .txEncodeExt
  | .txEncodeTlm _ _ => .txEncodeTlm
  | .rxDecodeSimple => .rxDecodeSimple
  | .rxDecodeExt => .rxDecodeExt
  | .rxDecodeTlm => .rxDecodeTlm
  | .rxDecodeSimpleExp _ => .rxDecodeSimpleExp
  | .rxDecodeExtExp _ => .rxDecodeExtExp
  | .rxDecodeTlmExp _ => .rxDecodeTlmExp
  | .rxStatus => .rxStatus

/-- The operand bytes of an operation. -/
def Instr.operands : Instr → List Byte
  | .crcClear => []
  | .crcByte b => [b]
  | .crcRead => []
  | .txEncodeSimple cmd payload => cmd :: payload
  | .txEncodeExt cmd payload => cmd :: payload
  | .txEncodeTlm cmd payload => cmd :: payload
  | .rxDecodeSimple => []
  | .rxDecodeExt => []
  | .rxDecodeTlm => []
  | .rxDecodeSimpleExp expect => [expect]
  | .rxDecodeExtExp expect => [expect]
  | .rxDecodeTlmExp expect => [expect]
  | .rxStatus => []

/-- The request that stands for an operation (R81): its code and then its operands. -/
def encode (i : Instr) : List Byte := i.opCode.code :: i.operands

/-- How many operand bytes a code has beside its payload (R81): one for CRC_BYTE's `b`, for a TX operation's `cmd`
and for an RX operation with the EXP bit; otherwise none. -/
def fixedOperandBytes (op : Byte) : Nat :=
  match operandShape op with
  | some .byte => 1
  | some .bytePayload => 1
  | _ => 0

/-- The request whose bits are `w`, numbered as spec/opcode_table.json numbers them: bits 7..0 are the operation
code, bits 15..8 the next byte, and so on.  The table gives its rows the code's eight bits and the operands none;
the operand bytes above `nbits` are 0 and the payload, which has no bits in the table, is empty (log 3). -/
def tableRequest (nbits w : Nat) : List Byte :=
  let listed := (List.range (nbits / 8)).map fun k => BitVec.ofNat 8 (w >>> (8 * k))
  match listed with
  | [] => []
  | op :: args => op :: (args ++ List.replicate (fixedOperandBytes op - args.length) 0#8)

/-- What the decoder reads from an opcode-table word. -/
def decodeTableWord (nbits w : Nat) : Option Instr :=
  match decode (tableRequest nbits w) with
  | .ok i => some i
  | .error _ => none

end Sys2Proof
end

