-- ==== Sys2Proof/Machine/State.lean ====
section
/-! DEFINITION. Sys2Proof/Machine/State.lean: all the state spec/10_state.md rule R41 gives one block instance and
its environment, and three fields of the model's own (the inputs still to come and the responses given). -/

namespace Sys2Proof.Machine

/-- The three framing variants (R3).  `rx_variant` never holds code 3 (R25), so there is no fourth. -/
inductive Variant where
  | simple
  | extended
  | telemetry
  deriving DecidableEq, Repr

/-- The decoder's phases (R24).  Codes 9 to 15 are reserved and never held (item U6 of
spec/93_implementation_defined.md): no value stands for them. -/
inductive RxPhase where
  | idle
  | start
  | len1
  | lenh
  | lenl
  | data
  | crch
  | crcl
  /-- END: waiting for the END delimiter. -/
  | endByte
  deriving DecidableEq, Repr

/-- The decode result codes (R201).  Codes 11 to 15 are reserved and never held: no value stands for them. -/
inductive RxResult where
  | none
  | pending
  | frame
  | noData
  | badStart
  | truncated
  | badEnd
  | emptyBody
  | badCrc
  | unexpectedId
  | linkError
  deriving DecidableEq, Repr

/-- A frame as a decode returns it (R32). -/
structure Frame where
  commandId : Byte
  payload : List Byte
  crc : Word
  deriving DecidableEq, Repr

/-- The cleared frame of R32. -/
def Frame.cleared : Frame := { commandId := 0x00#8, payload := [], crc := 0x0000#16 }

/-- The statuses a host operation responds with (R80). -/
inductive Status where
  | ok
  | illegalOp
  | busy
  | tooLong
  | linkError
  deriving DecidableEq, Repr

/-- What a host operation returns: its status, and for CRC_READ a value (R109), for RX_STATUS a report (R178). -/
inductive Response where
  /-- A status alone. -/
  | plain (status : Status)
  /-- OK with CRC_READ's value. -/
  | value (crc : Word)
  /-- OK with RX_STATUS's 4-bit phase and result codes and its frame. -/
  | report (phase : BitVec 4) (result : BitVec 4) (frame : Frame)
  deriving DecidableEq, Repr

/-- The link agent's draw for a write (R134): success, or failure after `k` bytes of the frame. -/
inductive WriteOutcome where
  | ok
  | fail (k : Nat)
  deriving DecidableEq, Repr

/-- The atomic steps of R55, by the agent that takes them (R10). -/
inductive Event where
  /-- The host issues one operation: the request's bytes. -/
  | host (request : List Byte)
  /-- The decoder takes its next step, if it has one (R161). -/
  | decoder
  /-- The timer draws a timeout (R167). -/
  | timeout
  /-- The link opens (R180). -/
  | linkOpen
  /-- The link closes (R180). -/
  | linkClose
  /-- The link delivers one byte (R180). -/
  | linkByte (b : Byte)
  /-- The link draws the outcome of the next write (R134, R180). -/
  | drawWrite (w : WriteOutcome)
  /-- The block's RESET input is asserted (R230). -/
  | reset
  deriving DecidableEq, Repr

/-- The state of one block instance with its link (R41, R211). -/
structure State where
  /-- `crc_acc`: the CRC accumulator of the host operations (R22). -/
  crcAcc : Word
  /-- `crc_bit`: the counter, 0 to 8, of the bit steps within one CRC_BYTE (R23). -/
  crcBit : Fin 9
  /-- `rx_phase`: the decoder's phase (R24). -/
  rxPhase : RxPhase
  /-- `rx_variant`: the variant of the decode in progress (R25). -/
  rxVariant : Variant
  /-- `rx_exp_en`: whether an id is expected (R26). -/
  rxExpEn : Bool
  /-- `rx_exp_id`: the expected command id (R26). -/
  rxExpId : Byte
  /-- `rx_id`: the TELEMETRY packet id taken in START (R27). -/
  rxId : Byte
  /-- `rx_lenbytes`: the length field as received, first byte first (R28). -/
  rxLenbytes : List Byte
  /-- `rx_len`: the declared length (R28). -/
  rxLen : Word
  /-- `rx_data`: the receive buffer (R29). -/
  rxData : List Byte
  /-- `rx_crc`: the received CRC (R30). -/
  rxCrc : Word
  /-- `rx_end`: the byte taken in END (R30). -/
  rxEnd : Byte
  /-- `rx_result`: the outcome of the latest decode (R31). -/
  rxResult : RxResult
  /-- `rx_frame`: the accepted frame of the latest decode (R32). -/
  rxFrame : Frame
  /-- `link_open`: whether the serial link is open; environment (R34). -/
  linkOpen : Bool
  /-- `rx_queue`: bytes received from the link and not yet taken, oldest first; environment (R35). -/
  rxQueue : List Byte
  /-- `tx_line`: every byte handed to the link, in order; observation (R36). -/
  txLine : List Byte
  /-- The model's own: the outcome the link has drawn for the next write (R134's `w`, "an input of the step"; log 4). -/
  writeDraw : WriteOutcome
  /-- The model's own: the atomic steps still to come, next one first, one total order of all agents (R58; log 1). -/
  schedule : List Event
  /-- The model's own: the responses the host has been given, oldest first; nothing reads them (R37, R80; log 5). -/
  responses : List Response
  deriving DecidableEq, Repr

/-- The block raises no exception and takes no trap (R200).  The one fault is raised only in states that break
`Sys2Proof.Safety.Consistent`, which no run from reset reaches: there the spec's pseudocode reads list elements that do not
exist.  Safe: the model stops where no rule gives a value. -/
inductive Fault where
  /-- Raised by the judgement of a SIMPLE or EXTENDED frame where `rx_data` holds fewer than `rx_len` bytes, so that
  `rx_data[0]` or `rx_data[1..rx_len)` of R174 does not exist.  Safe. -/
  | bodyByteMissing
  deriving DecidableEq, Repr

/-- Why a step gives no meaning. -/
inductive Refusal where
  /-- Raised by an arm of `exec` whose operation has no meaning yet; no arm is left that raises it.  Safe. -/
  | notModelled (mnemonic : String)
  /-- Raised by the host's step for a request that is no operation of R81 and no reserved code of R83: it is empty, or
  its code is listed and its operands are not the ones R81 gives that code.  Operands are typed values in the spec
  (R82), so no host can issue it.  Safe. -/
  | malformedRequest
  deriving DecidableEq, Repr

/-- The state a model starts in (R233): the block at the reset values of R230 and R41, the link closed, nothing queued,
nothing sent; and no step scheduled, no write outcome drawn but success, no response given (logs 1, 4, 5). -/
def State.reset : State where
  crcAcc := 0x0000#16
  crcBit := 0
  rxPhase := .idle
  rxVariant := .simple
  rxExpEn := false
  rxExpId := 0x00#8
  rxId := 0x00#8
  rxLenbytes := []
  rxLen := 0#16
  rxData := []
  rxCrc := 0x0000#16
  rxEnd := 0x00#8
  rxResult := .none
  rxFrame := Frame.cleared
  linkOpen := false
  rxQueue := []
  txLine := []
  writeDraw := .ok
  schedule := []
  responses := []

end Sys2Proof.Machine
end

