-- ==== Sys2Proof/Machine/Params.lean ====
section
/-! DEFINITION. Sys2Proof/Machine/Params.lean: the parameter values that spec/00_scope.md rule R9 states.
(Those it leaves `OPEN` are in Config.lean.) -/

namespace Sys2Proof.Machine

/-- The CRC polynomial (R9, R102). -/
def crcPolynomial : Word := 0x1021#16

/-- The CRC's initial value (R9, R104). -/
def crcInitial : Word := 0x0000#16

/-- Bit steps per byte (R9). -/
def crcBitSteps : Nat := 8

/-- The delimiter START of SIMPLE and the short header marker of EXTENDED (R9). -/
def startByte : Byte := 0x02#8

/-- The long header marker of EXTENDED (R9). -/
def longHeader : Byte := 0x03#8

/-- The delimiter END of SIMPLE and EXTENDED (R9). -/
def endDelimiter : Byte := 0x03#8

/-- The largest SIMPLE payload (R9, R131). -/
def maxSimplePayload : Nat := 254

/-- The largest declared length of an EXTENDED short header (R78). -/
def maxShortLength : Nat := 255

/-- The largest EXTENDED declared length, command id included (R132). -/
def maxExtLength : Nat := 65535

/-- The largest TELEMETRY payload (R9, R133). -/
def maxTlmPayload : Nat := 65535

end Sys2Proof.Machine
end

