-- ==== Sys2Proof/Machine/Operands.lean ====
section
/-! DEFINITION. Sys2Proof/Machine/Operands.lean: how fields are made of bytes and taken apart (R11, R52, R54, R75). -/

namespace Sys2Proof.Machine

/-- `v[15:8]`, the high byte of a u16 (R11). -/
def highByte (v : Word) : Byte := v.extractLsb' 8 8

/-- `v[7:0]`, the low byte of a u16 (R11). -/
def lowByte (v : Word) : Byte := v.extractLsb' 0 8

/-- `be16(v)`, the big-endian byte pair of a u16 (R11, R52). -/
def be16 (v : Word) : List Byte := [highByte v, lowByte v]

/-- `zext_16(b)`: a byte as a u16 (R75's one-byte length field). -/
def zext16 (b : Byte) : Word := b.setWidth 16

/-- `zext_16(b) << 8`: a byte in bits 15:8 (R103, and the CRCH phase of R173). -/
def inHighByte (b : Byte) : Word := zext16 b <<< 8

/-- `hi * 256 + lo`, a two-byte length field (R75). -/
def assemble (hi lo : Byte) : Word := BitVec.ofNat 16 (hi.toNat * 256 + lo.toNat)

/-- The u16 that a length within its bound is written as (R131 to R133). -/
def lengthWord (n : Nat) : Word := BitVec.ofNat 16 n

end Sys2Proof.Machine
end

