-- ==== Sys2Proof/Machine/Flags.lean ====
section
/-! DEFINITION. Sys2Proof/Machine/Flags.lean: the block has no flags (R37).  Two status values stand in for them, the
status of a response (R80) and the decoder's result (R201); these are their codes, and the phase's (R24). -/

namespace Sys2Proof.Machine

/-- The code of a variant (R3, R25). -/
def Variant.code : Variant → BitVec 2
  | .simple => 0
  | .extended => 1
  | .telemetry => 2

/-- The 4-bit code of a phase, as RX_STATUS reports it (R24). -/
def RxPhase.code : RxPhase → BitVec 4
  | .idle => 0
  | .start => 1
  | .len1 => 2
  | .lenh => 3
  | .lenl => 4
  | .data => 5
  | .crch => 6
  | .crcl => 7
  | .endByte => 8

/-- The 4-bit code of a result, as RX_STATUS reports it (R201). -/
def RxResult.code : RxResult → BitVec 4
  | .none => 0
  | .pending => 1
  | .frame => 2
  | .noData => 3
  | .badStart => 4
  | .truncated => 5
  | .badEnd => 6
  | .emptyBody => 7
  | .badCrc => 8
  | .unexpectedId => 9
  | .linkError => 10

/-- The code of a status (R80). -/
def Status.code : Status → Nat
  | .ok => 0
  | .illegalOp => 1
  | .busy => 2
  | .tooLong => 3
  | .linkError => 4

/-- The one status of a response (R80): a value or a report comes with OK (R109, R178). -/
def Response.status : Response → Status
  | .plain status => status
  | .value _ => .ok
  | .report _ _ _ => .ok

end Sys2Proof.Machine
end

