-- ==== Sys2Proof/Machine/Ops.lean ====
section
/-! DEFINITION. Sys2Proof/Machine/Ops.lean: the shared operations.

The CRC function (spec/40_crc.md), the frame functions and the write (spec/41_framer_tx.md), arming, the decoder's
byte steps, judgement and `finish` (spec/42_framer_rx.md), the link's steps (R180) and the block's reset (R230).
The block takes no exception (R200, R207): `finish` is the whole of entry, and arming again the whole of return. -/

namespace Sys2Proof.Machine

/-- A step's outcome on this machine. -/
abbrev Outcome := Host.Outcome State Fault Refusal

/-! ### The CRC function -/

/-- `shift_step` (R102). -/
def shiftStep (a : Word) : Word :=
  if a.getLsbD 15 then (a <<< 1) ^^^ crcPolynomial else a <<< 1

/-- `t` and `crc_bit` after `n` more of a byte's bit steps (R102, R108). -/
def bitSteps : Nat → Word × Fin 9 → Word × Fin 9
  | 0, p => p
  | n + 1, p => bitSteps n (shiftStep p.1, p.2 + 1)

/-- `t` and `crc_bit` at the end of the byte step from accumulator `a` on byte `b`, the counter starting at 0 (R103, R108). -/
def byteSteps (a : Word) (b : Byte) : Word × Fin 9 :=
  bitSteps crcBitSteps (a ^^^ inHighByte b, 0)

/-- `byte_step` (R103). -/
def byteStep (a : Word) (b : Byte) : Word := (byteSteps a b).1

/-- `crc16` (R104): the byte step folded over the bytes from 0x0000, first byte first. -/
def crc16 (bytes : List Byte) : Word := bytes.foldl byteStep crcInitial

/-- `bit_serial_step` (R106), the bit-serial form of the generator. -/
def bitSerialStep (a : Word) (bit : Bool) : Word :=
  (a <<< 1) ^^^ (if a.getLsbD 15 ^^ bit then crcPolynomial else 0x0000#16)

/-! ### Responses -/

/-- `respond`: the host is given a response, which the block does not keep (R37, R80). -/
def State.respond (s : State) (r : Response) : State :=
  { s with responses := s.responses ++ [r] }

/-- `crc_acc <- v`, with `crc_bit` back at 0, where it is outside a CRC_BYTE (R23). -/
def State.setCrc (s : State) (v : Word) : State :=
  { s with crcAcc := v, crcBit := 0 }

/-! ### Frames -/

/-- The covered bytes of a frame as received (R76), from the variant, the packet id, the length field's bytes and the
body (SIMPLE, EXTENDED) or payload (TELEMETRY). -/
def coveredBytes (v : Variant) (id : Byte) (lenbytes data : List Byte) : List Byte :=
  match v with
  | .simple => lenbytes ++ data
  | .extended => data
  | .telemetry => [id] ++ lenbytes ++ data

/-- `frame_simple` (R131); `none` is TOO_LONG. -/
def frameSimple (c : Byte) (p : List Byte) : Option (List Byte) :=
  if p.length > maxSimplePayload then none
  else
    let cov := [lowByte (lengthWord (p.length + 1)), c] ++ p
    some ([startByte] ++ cov ++ be16 (crc16 cov) ++ [endDelimiter])

/-- The EXTENDED header of a declared length (R78). -/
def extHeader (len : Nat) : List Byte :=
  if len ≤ maxShortLength then [startByte, lowByte (lengthWord len)]
  else [longHeader] ++ be16 (lengthWord len)

/-- `frame_ext` (R132); `none` is TOO_LONG. -/
def frameExt (c : Byte) (p : List Byte) : Option (List Byte) :=
  if p.length + 1 > maxExtLength then none
  else
    let body := [c] ++ p
    some (extHeader (p.length + 1) ++ body ++ be16 (crc16 body) ++ [endDelimiter])

/-- `frame_tlm` (R133); `none` is TOO_LONG. -/
def frameTlm (c : Byte) (p : List Byte) : Option (List Byte) :=
  if p.length > maxTlmPayload then none
  else
    let cov := [c] ++ be16 (lengthWord p.length) ++ p
    some (cov ++ be16 (crc16 cov))

/-- The frame function of a variant, `frame_v` of R135. -/
def frameOf : Variant → Byte → List Byte → Option (List Byte)
  | .simple => frameSimple
  | .extended => frameExt
  | .telemetry => frameTlm

/-! ### The write -/

/-- `TxEmit(f)` (R134) and its response.  On a closed link nothing is drawn and nothing emitted.  On an open one the
outcome drawn for this write decides; it is used up, and the link may draw again for the next (log 4). -/
def txEmit (f : List Byte) (s : State) : State :=
  if s.linkOpen then
    match s.writeDraw with
    | .ok => { s with txLine := s.txLine ++ f }.respond (.plain .ok)
    | .fail k => { s with txLine := s.txLine ++ f.take k, writeDraw := .ok }.respond (.plain .linkError)
  else s.respond (.plain .linkError)

/-- `tx_encode` (R135): TOO_LONG is decided before the link is consulted. -/
def txEncode (v : Variant) (c : Byte) (p : List Byte) (s : State) : State :=
  match frameOf v c p with
  | none => s.respond (.plain .tooLong)
  | some f => txEmit f s

/-! ### Arming and finishing a decode -/

/-- `arm` (R163), and BUSY while a decode is in progress (R162). -/
def arm (v : Variant) (en : Bool) (id : Byte) (s : State) : State :=
  if s.rxPhase = .idle then
    { s with
      rxVariant := v
      rxExpEn := en
      rxExpId := if en then id else 0x00#8
      rxResult := .pending
      rxFrame := Frame.cleared
      rxPhase := .start }.respond (.plain .ok)
  else s.respond (.plain .busy)

/-- `finish` (R175): the result is recorded, the frame kept only with FRAME, and the partial fields cleared. -/
def finish (r : RxResult) (s : State) : State :=
  { s with
    rxResult := r
    rxFrame := if r = .frame then s.rxFrame else Frame.cleared
    rxId := 0x00#8
    rxLenbytes := []
    rxLen := 0#16
    rxData := []
    rxCrc := 0x0000#16
    rxEnd := 0x00#8
    rxPhase := .idle }

/-! ### The decoder's bytes -/

/-- Phase START (R168). -/
def onStart (b : Byte) (s : State) : State :=
  match s.rxVariant with
  | .simple => if b = startByte then { s with rxPhase := .len1 } else finish .badStart s
  | .extended =>
    if b = startByte then { s with rxPhase := .len1 }
    else if b = longHeader then { s with rxPhase := .lenh }
    else finish .badStart s
  | .telemetry => { s with rxId := b, rxPhase := .lenh }

/-- The phase after a length field: a declared length of 0 skips DATA (R169, R171). -/
def afterLength (len : Word) : RxPhase := if len = 0#16 then .crch else .data

/-- Phase LEN1 (R169). -/
def onLen1 (b : Byte) (s : State) : State :=
  { s with rxLenbytes := [b], rxLen := zext16 b, rxPhase := afterLength (zext16 b) }

/-- Phase LENH (R170). -/
def onLenh (b : Byte) (s : State) : State :=
  { s with rxLenbytes := [b], rxPhase := .lenl }

/-- Phase LENL (R171).  `rx_lenbytes[0]` is read after `b` has been appended, so it always exists: it is the first byte of
the field, and where none had been taken it is `b` itself. -/
def onLenl (b : Byte) (s : State) : State :=
  let len := assemble ((s.rxLenbytes ++ [b]).headD b) b
  { s with rxLenbytes := s.rxLenbytes ++ [b], rxLen := len, rxPhase := afterLength len }

/-- Phase DATA (R172). -/
def onData (b : Byte) (s : State) : State :=
  { s with
    rxData := s.rxData ++ [b]
    rxPhase := if (s.rxData ++ [b]).length = s.rxLen.toNat then .crch else s.rxPhase }

/-- Phase CRCH (R173). -/
def onCrch (b : Byte) (s : State) : State :=
  { s with rxCrc := inHighByte b, rxPhase := .crcl }

/-- The last two checks and the acceptance of `judge` (R174): the CRC, then the expected id. -/
def verdict (cov : List Byte) (c : Byte) (p : List Byte) (s : State) : State :=
  if crc16 cov ≠ s.rxCrc then finish .badCrc s
  else if s.rxExpEn = true ∧ c ≠ s.rxExpId then finish .unexpectedId s
  else finish .frame { s with rxFrame := { commandId := c, payload := p, crc := s.rxCrc } }

/-- `judge` for a frame with a body and an END byte, SIMPLE or EXTENDED (R174).  Where the buffer is shorter than the
declared length the slice of R174 does not exist: a fault, in unreachable states only. -/
def judgeBody (s : State) : Outcome :=
  if s.rxEnd ≠ endDelimiter then .next (finish .badEnd s)
  else if s.rxLen = 0#16 then .next (finish .emptyBody s)
  else
    match s.rxData.take s.rxLen.toNat with
    | [] => .fault .bodyByteMissing
    | c :: p =>
      if s.rxData.length < s.rxLen.toNat then .fault .bodyByteMissing
      else .next (verdict (coveredBytes s.rxVariant s.rxId s.rxLenbytes s.rxData) c p s)

/-- `judge` (R174). -/
def judge (s : State) : Outcome :=
  match s.rxVariant with
  | .simple => judgeBody s
  | .extended => judgeBody s
  | .telemetry => .next (verdict (coveredBytes .telemetry s.rxId s.rxLenbytes s.rxData) s.rxId s.rxData s)

/-- Phase CRCL (R173): TELEMETRY has no terminator and is judged at once. -/
def onCrcl (b : Byte) (s : State) : Outcome :=
  let taken := { s with rxCrc := s.rxCrc ||| zext16 b }
  match s.rxVariant with
  | .telemetry => judge taken
  | .simple => .next { taken with rxPhase := .endByte }
  | .extended => .next { taken with rxPhase := .endByte }

/-- Phase END (R173): the byte is taken before any check. -/
def onEnd (b : Byte) (s : State) : Outcome := judge { s with rxEnd := b }

/-- `on_byte` (R166): the byte step of the phase.  An idle decoder has no step (R161) and takes no byte. -/
def onByte (b : Byte) (s : State) : Outcome :=
  match s.rxPhase with
  | .idle => .next s
  | .start => .next (onStart b s)
  | .len1 => .next (onLen1 b s)
  | .lenh => .next (onLenh b s)
  | .lenl => .next (onLenl b s)
  | .data => .next (onData b s)
  | .crch => .next (onCrch b s)
  | .crcl => onCrcl b s
  | .endByte => onEnd b s

/-! ### The decoder's and the timer's steps -/

/-- Whether the decoder is armed (R24). -/
def State.armed (s : State) : Bool := s.rxPhase ≠ .idle

/-- Whether the decoder waits on an empty queue of an open link, the one condition that enables a timeout (R161, R167). -/
def State.waiting (s : State) : Bool := s.armed && s.linkOpen && s.rxQueue.isEmpty

/-- The decoder's step (R161): idle, none; armed on a closed link, the link-closed finish (R165); a byte queued, the take
(R166); otherwise it waits.  Where it has no step the state stays as it is. -/
def decoderStep (s : State) : Outcome :=
  if s.rxPhase = .idle then .next s
  else if s.linkOpen then
    match s.rxQueue with
    | [] => .next s
    | b :: rest => onByte b { s with rxQueue := rest }
  else .next (finish .linkError s)

/-- The timer's draw (R167).  A draw that is not enabled changes nothing. -/
def timeoutStep (s : State) : State :=
  if s.waiting then
    if s.rxPhase = .start then finish .noData s else finish .truncated s
  else s

/-! ### The link's steps -/

/-- `env.open` (R180). -/
def linkOpenStep (s : State) : State := { s with linkOpen := true }

/-- `env.close` (R180): the bytes not yet taken are discarded. -/
def linkCloseStep (s : State) : State := { s with linkOpen := false, rxQueue := [] }

/-- `env.rx b` (R180): on a closed link the byte is lost. -/
def linkByteStep (b : Byte) (s : State) : State :=
  if s.linkOpen then { s with rxQueue := s.rxQueue ++ [b] } else s

/-- The write outcome draw of R134 (R180). -/
def drawWriteStep (w : WriteOutcome) (s : State) : State := { s with writeDraw := w }

/-! ### Reset -/

/-- `reset()` (R230): every block field at its reset value; the link, the queue and the line stay. -/
def blockReset (s : State) : State :=
  { s with
    crcAcc := 0x0000#16
    crcBit := 0
    rxPhase := .idle
    rxVariant := .simple
    rxExpEn := false
    rxExpId := 0x00#8
    rxId := 0x00#8
    rxLenbytes := []
    rxLen := 0#16
    rxData := []
    rxCrc := 0x0000#16
    rxEnd := 0x00#8
    rxResult := .none
    rxFrame := Frame.cleared }

end Sys2Proof.Machine
end

