-- ==== Sys2Proof/Machine/Crc.lean ====
section
/-! DEFINITION. Sys2Proof/Machine/Crc.lean: the host operations on the CRC accumulator (spec/40_crc.md section 3). -/

namespace Sys2Proof.Machine

/-- CRC_CLEAR (R107). -/
def execCrcClear (s : State) : Outcome :=
  .next ({ s with crcAcc := 0x0000#16 }.respond (.plain .ok))

/-- CRC_BYTE (R108): `t` runs through the eight bit steps, and `crc_bit` counts them and is 0 again. -/
def execCrcByte (b : Byte) (s : State) : Outcome :=
  .next ((s.setCrc (byteSteps s.crcAcc b).1).respond (.plain .ok))

/-- CRC_READ (R109). -/
def execCrcRead (s : State) : Outcome :=
  .next (s.respond (.value s.crcAcc))

end Sys2Proof.Machine
end

