-- ==== Sys2Proof/Machine/FramerRx.lean ====
section
/-! DEFINITION. Sys2Proof/Machine/FramerRx.lean: the host operations of the frame decoder (spec/42_framer_rx.md section 5).
An RX_DECODE only arms the decoder (R10); the decode then runs by the decoder's own steps. -/

namespace Sys2Proof.Machine

/-- RX_DECODE_SIMPLE (R181). -/
def execRxDecodeSimple (s : State) : Outcome := .next (arm .simple false 0x00#8 s)

/-- RX_DECODE_EXT (R182). -/
def execRxDecodeExt (s : State) : Outcome := .next (arm .extended false 0x00#8 s)

/-- RX_DECODE_TLM (R183). -/
def execRxDecodeTlm (s : State) : Outcome := .next (arm .telemetry false 0x00#8 s)

/-- RX_DECODE_SIMPLE_EXP (R184). -/
def execRxDecodeSimpleExp (expect : Byte) (s : State) : Outcome := .next (arm .simple true expect s)

/-- RX_DECODE_EXT_EXP (R185). -/
def execRxDecodeExtExp (expect : Byte) (s : State) : Outcome := .next (arm .extended true expect s)

/-- RX_DECODE_TLM_EXP (R186). -/
def execRxDecodeTlmExp (expect : Byte) (s : State) : Outcome := .next (arm .telemetry true expect s)

/-- RX_STATUS (R178). -/
def execRxStatus (s : State) : Outcome :=
  .next (s.respond (.report s.rxPhase.code s.rxResult.code s.rxFrame))

end Sys2Proof.Machine
end

