-- ==== Sys2Proof/Machine/FramerTx.lean ====
section
/-! DEFINITION. Sys2Proof/Machine/FramerTx.lean: the host operations of the frame encoder (spec/41_framer_tx.md section 3). -/

namespace Sys2Proof.Machine

/-- TX_ENCODE_SIMPLE (R136). -/
def execTxEncodeSimple (cmd : Byte) (payload : List Byte) (s : State) : Outcome :=
  .next (txEncode .simple cmd payload s)

/-- TX_ENCODE_EXT (R137). -/
def execTxEncodeExt (cmd : Byte) (payload : List Byte) (s : State) : Outcome :=
  .next (txEncode .extended cmd payload s)

/-- TX_ENCODE_TLM (R138). -/
def execTxEncodeTlm (cmd : Byte) (payload : List Byte) (s : State) : Outcome :=
  .next (txEncode .telemetry cmd payload s)

end Sys2Proof.Machine
end

