-- ==== Sys2Proof/Machine/Dispatch.lean ====
section
/-! DEFINITION. Sys2Proof/Machine/Dispatch.lean: one arm per host operation (R81). -/

namespace Sys2Proof.Machine

def exec (i : Instr) (s : State) : Host.Outcome State Fault Refusal :=
  match i with
  -- the CRC unit, op[7:4] = 1
  | .crcClear => Sys2Proof.Machine.execCrcClear s
  | .crcByte b => Sys2Proof.Machine.execCrcByte b s
  | .crcRead => Sys2Proof.Machine.execCrcRead s
  -- the TX unit, op[7:4] = 2
  | .txEncodeSimple cmd payload => Sys2Proof.Machine.execTxEncodeSimple cmd payload s
  | .txEncodeExt cmd payload => Sys2Proof.Machine.execTxEncodeExt cmd payload s
  | .txEncodeTlm cmd payload => Sys2Proof.Machine.execTxEncodeTlm cmd payload s
  -- the RX unit, op[7:4] = 3
  | .rxDecodeSimple => Sys2Proof.Machine.execRxDecodeSimple s
  | .rxDecodeExt => Sys2Proof.Machine.execRxDecodeExt s
  | .rxDecodeTlm => Sys2Proof.Machine.execRxDecodeTlm s
  | .rxDecodeSimpleExp expect => Sys2Proof.Machine.execRxDecodeSimpleExp expect s
  | .rxDecodeExtExp expect => Sys2Proof.Machine.execRxDecodeExtExp expect s
  | .rxDecodeTlmExp expect => Sys2Proof.Machine.execRxDecodeTlmExp expect s
  -- the status unit, op[7:4] = 4
  | .rxStatus => Sys2Proof.Machine.execRxStatus s

end Sys2Proof.Machine
end

