-- ==== Sys2Proof/Machine/Agents.lean ====
section
/-! DEFINITION. Sys2Proof/Machine/Agents.lean: one atomic step of each agent (R10, R55). -/

namespace Sys2Proof.Machine

/-- The host's step: the operation its request stands for (R81), or ILLEGAL_OP with no change of state for a reserved
code, whatever operands come with it (R83).  A request that is neither is refused by name (log 2). -/
def hostStep (request : List Byte) (s : State) : Outcome :=
  match decode request with
  | .ok i => exec i s
  | .error (.reservedOp _) => .next (s.respond (.plain .illegalOp))
  | .error (.operandCount _) => .refused .malformedRequest
  | .error .noOpcode => .refused .malformedRequest

/-- One step of the agent an event names. -/
def eventStep (ev : Event) (s : State) : Outcome :=
  match ev with
  | .host request => hostStep request s
  | .decoder => decoderStep s
  | .timeout => .next (timeoutStep s)
  | .linkOpen => .next (linkOpenStep s)
  | .linkClose => .next (linkCloseStep s)
  | .linkByte b => .next (linkByteStep b s)
  | .drawWrite w => .next (drawWriteStep w s)
  | .reset => .next (blockReset s)

/-- The step when the outside world has nothing scheduled: the decoder, the one agent inside the block, goes on (log 1). -/
def unscheduledStep (s : State) : Outcome := decoderStep s

end Sys2Proof.Machine
end

