-- ==== Sys2Proof/Machine/Step.lean ====
section
/-! DEFINITION. Sys2Proof/Machine/Step.lean: a run is one total order of the agents' atomic steps (R58), and a step takes
the next one. -/

namespace Sys2Proof.Machine

/-- One atomic step: the next scheduled one, or the decoder's own where nothing is scheduled. -/
def step (s : State) : Host.Outcome State Fault Refusal :=
  match s.schedule with
  | [] => unscheduledStep s
  | ev :: rest => eventStep ev { s with schedule := rest }

/-- `s` with the host about to issue the operation of an opcode-table word: the block fetches no instruction (R21), so
the place a step takes its next operation from is the head of the schedule (log 3). -/
def State.withFetchWord (s : State) (nbits w : Nat) : State :=
  { s with schedule := .host (tableRequest nbits w) :: s.schedule }

end Sys2Proof.Machine
end

