-- ==== Sys2Proof/Machine/Fairness.lean ====
section
/-! DEFINITION. Sys2Proof/Machine/Fairness.lean: runs without end (R58) and the fairness R179 assumes of them.  A run is no
part of State: it is a sequence of events beside the machine, and the state before each of them. -/

namespace Sys2Proof.Machine

/-- A run without end, one total order of the agents' atomic steps (R58): in state `n` the machine takes the step that
`events n` names, and `states (n + 1)` is the state it answers. -/
def IsRun (events : Nat → Event) (states : Nat → State) : Prop :=
  ∀ n, step { states n with schedule := [events n] } = .next (states (n + 1))

/-! ### The three kinds of step of an armed decoder (R161); the third is `State.waiting` -/

/-- Armed, the link open, a byte queued: the decoder's step is a take (R166). -/
def State.canTake (s : State) : Bool := s.armed && s.linkOpen && !s.rxQueue.isEmpty

/-- Armed on a closed link: the decoder's step is the link-closed finish (R165). -/
def State.cutOff (s : State) : Bool := s.armed && !s.linkOpen

/-- Whether the event is a take (R166). -/
def isTake (ev : Event) (s : State) : Bool := ev = .decoder && s.canTake

/-- Whether the event is the step, or the draw, that R161 enables for an armed decoder: a take, the link-closed finish, or
the timeout of a decoder that waits. -/
def isDecodeStep (ev : Event) (s : State) : Bool :=
  isTake ev s || (ev = .decoder && s.cutOff) || (ev = .timeout && s.waiting)

/-! ### Fairness (R179) -/

/-- Weak fairness of one kind of step: where a run stays in states that enable it, the step comes. -/
def WeaklyFair (enabled : State → Bool) (ev : Event) (events : Nat → Event) (states : Nat → State) : Prop :=
  ∀ n, (∀ m, n ≤ m → enabled (states m) = true) → ∃ m, n ≤ m ∧ events m = ev

/-- A fair run (R179: weak fairness of the decoder's steps and of the timeout draw): a decoder with a queued byte eventually
takes it, one that stays armed on a closed link eventually finishes, and one that stays armed on an open link with an empty
queue eventually draws a timeout.  Bytes may arrive, and the host may issue operations, at any point between. -/
def FairRun (events : Nat → Event) (states : Nat → State) : Prop :=
  IsRun events states ∧
  WeaklyFair State.canTake .decoder events states ∧
  WeaklyFair State.cutOff .decoder events states ∧
  WeaklyFair State.waiting .timeout events states

/-- The link closes only finitely often in the run.  R179 says "every decode finishes" and does not name this; weak fairness
kind by kind needs it, for a link that closes and opens again for ever between the decoder's steps enables none of them for
good (log 16). -/
def LinkSettles (events : Nat → Event) : Prop := ∃ n, ∀ m, n ≤ m → events m ≠ .linkClose

/-- A run that is fair to the decoder as one agent (DESIGN CHOICE, log 16): while it stays armed, the step that R161 enables,
of whichever kind it is then, eventually comes.  Here the link may close and open without end. -/
def JointlyFairRun (events : Nat → Event) (states : Nat → State) : Prop :=
  IsRun events states ∧
  ∀ n, (∀ m, n ≤ m → (states m).armed = true) → ∃ m, n ≤ m ∧ isDecodeStep (events m) (states m) = true

/-- How many of the `len` steps from step `n` on are of a kind. -/
def countSteps (kind : Event → State → Bool) (events : Nat → Event) (states : Nat → State) (n len : Nat) : Nat :=
  (List.range' n len).countP fun k => kind (events k) (states k)

end Sys2Proof.Machine
end

