-- ==== Sys2Proof/Machine/Pseudo.lean ====
section
/-! DEFINITION. Sys2Proof/Machine/Pseudo.lean: the pseudo-operations of R86 and the composite lines of R85's syntax
(`env.rx` of several bytes, `dec.run`), the transport's flushes (R180), and the fair decoder of R179.
None of them is a step of its own: each expands to steps. -/

namespace Sys2Proof.Machine

/-- Go on from a next state; a stop stays. -/
def andThen (o : Outcome) (f : State → Outcome) : Outcome :=
  match o with
  | .next s => f s
  | .fault r => .fault r
  | .refused r => .refused r

/-- `n` repetitions of a step, up to the first stop. -/
def repeatStep (f : State → Outcome) : Nat → State → Outcome
  | 0, s => .next s
  | n + 1, s => andThen (f s) (repeatStep f n)

/-- The host issuing operations one after the other. -/
def hostEvents (is : List Instr) : List Event := is.map fun i => .host (encode i)

/-- `crc.compute [d0 ... dk]` (R86): CRC_CLEAR, a CRC_BYTE for each byte, CRC_READ. -/
def crcCompute (bytes : List Byte) : List Instr :=
  [.crcClear] ++ bytes.map .crcByte ++ [.crcRead]

/-- `env.rx [b0 b1 ...]` (R85): the link delivers the bytes in order. -/
def linkBytes (bytes : List Byte) : List Event := bytes.map .linkByte

/-- The transport's `flush_input()`.  R180 fixes its effect only "as far as `rx_queue` is concerned": a close followed by
an open, which empties the queue.  What it does to the link itself is the model's choice (DESIGN CHOICE, log 15): the two
steps run as they are, so the link is open after a flush, also where it was closed before. -/
def flushInput : List Event := [.linkClose, .linkOpen]

/-- The transport's `flush_output()`: no effect on `tx_line` (R180). -/
def flushOutput : List Event := []

/-- `dec.run` (R85) with `n` steps at most: an idle decoder and one that waits on an empty queue stay as they are. -/
def decRun (n : Nat) (s : State) : Outcome := repeatStep decoderStep n s

/-- One way to meet R179's fairness (DESIGN CHOICE, log 12): a queued byte is taken, a closed link finishes, and a wait on an
empty queue of an open link ends in a timeout at once, where R179 lets bytes arrive and the draw come later.
The fair runs themselves are `FairRun` of Fairness.lean. -/
def fairDecoderStep (s : State) : Outcome :=
  if s.waiting then .next (timeoutStep s) else decoderStep s

/-- Whether the latest response reports phase IDLE. -/
def State.toldIdle (s : State) : Bool :=
  match s.responses.getLast? with
  | some (.report phase _ _) => phase = RxPhase.idle.code
  | _ => false

/-- `rx.wait` (R86) with at most `n` further RX_STATUS: RX_STATUS until the returned phase is IDLE.  That the fair
decoder steps exactly once between two of them is the model's choice (DESIGN CHOICE, log 12). -/
def rxWait : Nat → State → Outcome
  | 0, s => execRxStatus s
  | n + 1, s =>
    andThen (execRxStatus s) fun t =>
      if t.toldIdle then .next t else andThen (fairDecoderStep t) (rxWait n)

end Sys2Proof.Machine
end

