-- ==== Sys2Proof/Safety.lean ====
section
/-! DEFINITION. Sys2Proof/Safety.lean: what holds in every state a run reaches, and the words the claims use. -/

namespace Sys2Proof.Safety

open Sys2Proof.Machine

/-- The declared length of a length field as received (R28, R75). -/
def lengthOf : List Byte → Word
  | [b] => zext16 b
  | [hi, lo] => assemble hi lo
  | _ => 0#16

/-- The covered bytes of the frame an encoder makes of a command or packet id and a payload (R76, R71 to R74). -/
def coveredOf (v : Variant) (c : Byte) (p : List Byte) : List Byte :=
  match v with
  | .simple => [BitVec.ofNat 8 (p.length + 1), c] ++ p
  | .extended => [c] ++ p
  | .telemetry => [c, BitVec.ofNat 8 (p.length / 256), BitVec.ofNat 8 p.length] ++ p

/-- The largest payload of a variant (R9, R71 to R74). -/
def maxPayload : Variant → Nat
  | .simple => 254
  | .extended => 65534
  | .telemetry => 65535

/-- The partial-frame fields that an armed decoder has not filled yet hold their reset values (R33). -/
abbrev LengthUnread (s : State) : Prop :=
  s.rxLen = 0#16 ∧ s.rxData = [] ∧ s.rxCrc = 0x0000#16

/-- The length field has been read: it has the width the variant gives it (R71 to R74), and `rx_len` is its value (R28). -/
abbrev LengthRead (s : State) : Prop :=
  (s.rxLenbytes.length = 1 ∨ s.rxLenbytes.length = 2) ∧
  (s.rxVariant = .simple → s.rxLenbytes.length = 1) ∧
  (s.rxVariant = .telemetry → s.rxLenbytes.length = 2) ∧
  s.rxLen = lengthOf s.rxLenbytes

/-- What the partial-frame fields hold in each phase (R27 to R30, R33, and the steps R168 to R173). -/
def phaseFields (s : State) : Bool :=
  match s.rxPhase with
  | .idle => s.rxId = 0x00#8 ∧ s.rxLenbytes = [] ∧ LengthUnread s
  | .start => s.rxId = 0x00#8 ∧ s.rxLenbytes = [] ∧ LengthUnread s
  | .len1 => s.rxVariant ≠ .telemetry ∧ s.rxLenbytes = [] ∧ LengthUnread s
  | .lenh => s.rxVariant ≠ .simple ∧ s.rxLenbytes = [] ∧ LengthUnread s
  | .lenl => s.rxVariant ≠ .simple ∧ s.rxLenbytes.length = 1 ∧ LengthUnread s
  | .data => LengthRead s ∧ s.rxData.length < s.rxLen.toNat ∧ s.rxCrc = 0x0000#16
  | .crch => LengthRead s ∧ s.rxData.length = s.rxLen.toNat ∧ s.rxCrc = 0x0000#16
  | .crcl => LengthRead s ∧ s.rxData.length = s.rxLen.toNat ∧ lowByte s.rxCrc = 0x00#8
  | .endByte => LengthRead s ∧ s.rxData.length = s.rxLen.toNat ∧ s.rxVariant ≠ .telemetry

/-- An accepted frame is within its variant's bound, carries the CRC of its covered bytes, and has the expected id where
one was expected (R174; the variant and the expectation stay until the next arm, R175). -/
abbrev AcceptedFrame (s : State) : Prop :=
  s.rxFrame.payload.length ≤ maxPayload s.rxVariant ∧
  s.rxFrame.crc = crc16 (coveredOf s.rxVariant s.rxFrame.commandId s.rxFrame.payload) ∧
  (s.rxExpEn = true → s.rxFrame.commandId = s.rxExpId)

/-- The states a run can reach: `crc_bit` is 0 between operations (R23); `rx_end` is 0 between steps (R173, R175); the
expected id is 0 where none is expected (R26, R163); the result is PENDING exactly while armed (R31); the frame is cleared
unless the result is FRAME (R32), and then it is a valid one; a packet id is held for TELEMETRY only (R27); a closed link
holds no queued bytes (R161, R180); and the partial-frame fields are those of the phase. -/
abbrev Consistent (s : State) : Prop :=
  s.crcBit = 0 ∧
  s.rxEnd = 0x00#8 ∧
  (s.rxExpEn = false → s.rxExpId = 0x00#8) ∧
  (s.rxResult = .pending ↔ s.rxPhase ≠ .idle) ∧
  (s.rxResult ≠ .frame → s.rxFrame = Frame.cleared) ∧
  (s.rxResult = .frame → AcceptedFrame s) ∧
  (s.rxVariant ≠ .telemetry → s.rxId = 0x00#8) ∧
  (s.linkOpen = false → s.rxQueue = []) ∧
  phaseFields s = true

/-- The state with the decoder finished (R175) with a result, holding the given frame. -/
def finished (r : RxResult) (f : Frame) (s : State) : State :=
  { s with
    rxResult := r, rxFrame := f, rxPhase := .idle,
    rxId := 0x00#8, rxLenbytes := [], rxLen := 0#16, rxData := [], rxCrc := 0x0000#16, rxEnd := 0x00#8 }

/-- How many bytes a decode of a variant takes from a queue, where the leading bytes say so (R84, R176): one for an illegal
leading byte, otherwise the declared frame's total length. -/
def decodeExtent : Variant → List Byte → Option Nat
  | .simple, b :: rest =>
    if b = 0x02#8 then
      match rest with
      | len :: _ => some (len.toNat + 5)
      | [] => none
    else some 1
  | .extended, b :: rest =>
    if b = 0x02#8 then
      match rest with
      | len :: _ => some (len.toNat + 5)
      | [] => none
    else if b = 0x03#8 then
      match rest with
      | hi :: lo :: _ => some (hi.toNat * 256 + lo.toNat + 6)
      | _ => none
    else some 1
  | .telemetry, _ :: hi :: lo :: _ => some (hi.toNat * 256 + lo.toNat + 5)
  | _, _ => none

/-- The decode that is in progress at step `n` of a run finishes (R179): the decoder is armed up to a step after which it is
idle; that step is RESET, which abandons the decode without a result (R231), or a step of the decode's own, which records a
final one; and the decode has at most 65541 takes (R176) and one further step at most. -/
def DecodeFinishes (events : Nat → Event) (states : Nat → State) (n : Nat) : Prop :=
  ∃ m, n ≤ m ∧ (∀ k, n ≤ k → k ≤ m → (states k).armed = true) ∧ (states (m + 1)).armed = false ∧
    (events m = .reset ∧ (states (m + 1)).rxResult = .none ∨
      isDecodeStep (events m) (states m) = true ∧
        (states (m + 1)).rxResult ≠ .none ∧ (states (m + 1)).rxResult ≠ .pending) ∧
    countSteps isTake events states n (m + 1 - n) ≤ 65541 ∧
    countSteps isDecodeStep events states n (m + 1 - n) ≤ countSteps isTake events states n (m + 1 - n) + 1

/-- A byte list with one bit of one byte flipped. -/
def flipBit (bytes : List Byte) (i j : Nat) : List Byte :=
  bytes.modify i fun b => b ^^^ (1#8 <<< j)

/-- The positions of a frame's id, payload and CRC bytes: neither a delimiter nor a length byte (R71 to R74, R188). -/
def protectedByte (v : Variant) (p : List Byte) (i : Nat) : Prop :=
  match v with
  | .simple => 2 ≤ i ∧ i < p.length + 5
  | .extended => if p.length ≤ 254 then 2 ≤ i ∧ i < p.length + 5 else 3 ≤ i ∧ i < p.length + 6
  | .telemetry => i = 0 ∨ (3 ≤ i ∧ i < p.length + 5)

/-- The bytes that the CRC_BYTE operations of a schedule feed, in order (R110). -/
def fedBytes (events : List Event) : List Byte :=
  events.filterMap fun ev =>
    match ev with
    | .host request =>
      match decode request with
      | .ok (.crcByte b) => some b
      | _ => none
    | _ => none

/-- The codes R83 reserves, range by range. -/
def reservedCode (op : Byte) : Prop :=
  op.toNat ≤ 0x0F ∨ (0x13 ≤ op.toNat ∧ op.toNat ≤ 0x1F) ∨ (0x23 ≤ op.toNat ∧ op.toNat ≤ 0x2F) ∨
  op.toNat = 0x33 ∨ (0x37 ≤ op.toNat ∧ op.toNat ≤ 0x3F) ∨ (0x41 ≤ op.toNat ∧ op.toNat ≤ 0xFF)

/-- Two states that agree in everything the decoder owns and reads: its fields, the link and the queue (R190). -/
abbrev SameDecoder (s t : State) : Prop :=
  s.rxPhase = t.rxPhase ∧ s.rxVariant = t.rxVariant ∧ s.rxExpEn = t.rxExpEn ∧ s.rxExpId = t.rxExpId ∧
  s.rxId = t.rxId ∧ s.rxLenbytes = t.rxLenbytes ∧ s.rxLen = t.rxLen ∧ s.rxData = t.rxData ∧
  s.rxCrc = t.rxCrc ∧ s.rxEnd = t.rxEnd ∧ s.rxResult = t.rxResult ∧ s.rxFrame = t.rxFrame ∧
  s.linkOpen = t.linkOpen ∧ s.rxQueue = t.rxQueue

/-- Two states that agree in everything the decoder neither reads nor writes. -/
abbrev SameElsewhere (s t : State) : Prop :=
  s.crcAcc = t.crcAcc ∧ s.crcBit = t.crcBit ∧ s.txLine = t.txLine ∧ s.writeDraw = t.writeDraw ∧
  s.schedule = t.schedule ∧ s.responses = t.responses

/-- `n` steps of the machine. -/
def run (n : Nat) (s : State) : Outcome := Host.Core.run Sys2Proof.core n s

end Sys2Proof.Safety
end

