-- ==== Sys2Proof/Certificates/Slice0/Obligations.lean ====
section
/-! DEFINITION. Sys2Proof/Certificates/Slice0/Obligations.lean: the statements for the provers.

A statement whose conclusion is `exec i s = .next { s with … }` says at once that the operation completes, what it
writes, and that everything it does not name is unchanged (its frame).  There is no memory and no program counter
(R21, R50); the byte sequences are `rx_queue` and `tx_line`. -/

open Sys2Proof Sys2Proof.Machine Sys2Proof.Safety

/-! ### Requests and operation codes -/

/-- R81 and R82: every request stands for at most one operation and every operation has exactly one request; no bit of
an operation code and no operand byte is dropped or invented.  (The request's bytes are the model's layout, log 2.) -/
def Obligations.RequestDecodesIffEncoded : Prop :=
  ∀ (request : List Byte) (i : Instr), decode request = .ok i ↔ request = encode i

/-- R81: the table of codes and the description of the code's bit fields (unit, variant, EXP) accept the same requests (whose layout is the model's, log 2). -/
def Obligations.TableAndBitFieldsAcceptTheSameRequests : Prop :=
  ∀ request : List Byte, (∃ i, decode request = .ok i) ↔ requestWf request = true

/-- R83: the reserved codes are those of its ranges, which are the codes R81 does not list, and a reserved code responds
ILLEGAL_OP and changes no state, whatever operand bytes come with it. -/
def Obligations.ReservedCodesAnswerIllegalOp : Prop :=
  (∀ op : Byte, reservedCode op ↔
    op ∉ [0x10#8, 0x11#8, 0x12#8, 0x20#8, 0x21#8, 0x22#8, 0x30#8, 0x31#8, 0x32#8, 0x34#8, 0x35#8, 0x36#8, 0x40#8]) ∧
  (∀ (op : Byte) (args : List Byte) (rest : List Event) (s : State),
    reservedCode op → s.schedule = .host (op :: args) :: rest →
    step s = .next { s with schedule := rest, responses := s.responses ++ [.plain .illegalOp] })

/-- The model's convention (assumption log 2): a request that is neither an operation of R81 nor a reserved code stops the
step under a name of its own; such a request is empty, or has a listed code with operands that are not the code's. -/
def Obligations.MalformedRequestStops : Prop :=
  ∀ (request : List Byte) (rest : List Event) (s : State),
    s.schedule = .host request :: rest →
    (step s = .refused .malformedRequest ↔
      requestWf request = false ∧ ∀ op args, request = op :: args → ¬ reservedCode op)

/-- A step runs the decoded operation: where the host's request is next, `step` is `exec` of the operation it decodes to,
at the state with the request taken off the schedule. -/
def Obligations.StepRunsDecodedOperation : Prop :=
  ∀ (request : List Byte) (i : Instr) (rest : List Event) (s : State),
    s.schedule = .host request :: rest → decode request = .ok i →
    step s = exec i { s with schedule := rest }

/-- A step takes the scheduled agent's step, and with nothing scheduled the decoder's (R55, R58; the schedule is the
model's, log 1). -/
def Obligations.StepRunsTheScheduledAgent : Prop :=
  ∀ (s : State) (rest : List Event),
    (s.schedule = [] → step s = decoderStep s) ∧
    (s.schedule = .decoder :: rest → step s = decoderStep { s with schedule := rest }) ∧
    (s.schedule = .timeout :: rest → step s = .next (timeoutStep { s with schedule := rest }))

/-- Sanity: words written out from R81's table decode to the operations they stand for. -/
def Obligations.ListedRequestsDecode : Prop :=
  decode [0b00010001#8, 0x31#8] = .ok (.crcByte 0x31#8) ∧
  decode [0b00100000#8, 0x05#8, 0x3F#8, 0x00#8] = .ok (.txEncodeSimple 0x05#8 [0x3F#8, 0x00#8]) ∧
  decode [0b00110110#8, 0x04#8] = .ok (.rxDecodeTlmExp 0x04#8) ∧
  decode [0b01000000#8] = .ok .rxStatus ∧
  decode [0b00110011#8] = .error (.reservedOp 0x33#8)

/-! ### The CRC engine -/

/-- R107: CRC_CLEAR (code 0x10), in every state, clears the accumulator, responds OK and writes nothing else. -/
def Obligations.CrcClearClearsAccumulator : Prop :=
  Instr.crcClear.opCode.code = 0x10#8 ∧
  ∀ s : State,
    exec .crcClear s = .next { s with crcAcc := 0x0000#16, responses := s.responses ++ [.plain .ok] }

/-- R108: CRC_BYTE (code 0x11) puts the byte into the accumulator's high byte, takes eight bit steps, leaves `crc_bit` 0, responds OK
and writes nothing else. -/
def Obligations.CrcByteTakesEightBitSteps : Prop :=
  ∀ (b : Byte) (s : State), (Instr.crcByte b).opCode.code = 0x11#8 ∧
    exec (.crcByte b) s = .next { s with
      crcAcc := shiftStep^[8] (s.crcAcc ^^^ (b.setWidth 16 <<< 8))
      crcBit := 0
      responses := s.responses ++ [.plain .ok] }

/-- R109: CRC_READ (code 0x12) responds OK with the accumulator and writes nothing. -/
def Obligations.CrcReadReturnsAccumulator : Prop :=
  Instr.crcRead.opCode.code = 0x12#8 ∧
  ∀ s : State, exec .crcRead s = .next { s with responses := s.responses ++ [.value s.crcAcc] }

/-- R57: CRC_READ and RX_STATUS read without changing, so that repeating either returns the same response and leaves
everything but the record of responses as it was. -/
def Obligations.RepeatedReadsAgree : Prop :=
  ∀ (i : Instr) (s : State), i = .crcRead ∨ i = .rxStatus →
    ∃ r, andThen (exec i s) (exec i) = .next { s with responses := s.responses ++ [r, r] }

/-- R102 as arithmetic: a clear high bit doubles the accumulator; a set one doubles it, drops the bit shifted out and
adds the polynomial 0x1021 bit by bit.  Masking to 16 bits after the addition instead of before it gives the same. -/
def Obligations.ShiftStepDoublesAndReduces : Prop :=
  ∀ a : Word,
    ((shiftStep a).toNat = if a.toNat < 0x8000 then 2 * a.toNat else (2 * a.toNat - 0x10000) ^^^ 0x1021) ∧
    ((shiftStep a).toNat = if a.toNat < 0x8000 then 2 * a.toNat else ((2 * a.toNat) ^^^ 0x1021) % 0x10000)

/-- R106: feeding a byte bit by bit, most significant bit first, gives the byte step. -/
def Obligations.BitSerialFormAgrees : Prop :=
  ∀ (a : Word) (b : Byte),
    byteStep a b = [7, 6, 5, 4, 3, 2, 1, 0].foldl (fun acc k => bitSerialStep acc (b.getLsbD k)) a

/-- R105, the laws of empty input, zero bytes and folding. -/
def Obligations.CrcOfEmptyZerosAndConcatenation : Prop :=
  crc16 [] = 0x0000#16 ∧
  (∀ k, crc16 (List.replicate k 0x00#8) = 0x0000#16) ∧
  (∀ x y : List Byte, crc16 (x ++ y) = y.foldl byteStep (crc16 x))

/-- R105, linearity: over lists of equal length the CRC of the bytewise XOR is the XOR of the CRCs. -/
def Obligations.CrcIsLinear : Prop :=
  ∀ x y : List Byte, x.length = y.length →
    crc16 (List.zipWith (fun a b => a ^^^ b) x y) = crc16 x ^^^ crc16 y

/-- R105, the residue law with its uniqueness: a list followed by a big-endian u16 has CRC 0 for its own CRC only. -/
def Obligations.CrcResidueIsZeroForOwnCrcOnly : Prop :=
  ∀ (d : List Byte) (r : Word), crc16 (d ++ be16 r) = 0x0000#16 ↔ r = crc16 d

/-- R105, single-bit errors: flipping any one bit of any byte of a list changes its CRC, whatever the list's length. -/
def Obligations.CrcDetectsEverySingleBitError : Prop :=
  ∀ (d : List Byte) (i j : Nat), i < d.length → j < 8 → crc16 (flipBit d i j) ≠ crc16 d

/-- R110 on the machine: issued one after the other, CRC_CLEAR, a CRC_BYTE per byte and CRC_READ leave `crc_acc` equal to
`crc16` of the bytes and return it.  Whatever other steps, except CRC_CLEAR and RESET, come between the CRC_BYTEs, after a
CRC_CLEAR the accumulator is `crc16` of the bytes fed, and without one the bytes continue from what it held. -/
def Obligations.CrcComputeReturnsCrc16 : Prop :=
  (∀ (d : List Byte) (s : State), s.schedule = hostEvents (crcCompute d) →
    ∃ t, run (d.length + 2) s = .next t ∧ t.crcAcc = crc16 d ∧
      t.responses = s.responses ++ List.replicate (d.length + 1) (.plain .ok) ++ [.value (crc16 d)]) ∧
  (∀ (events : List Event) (s t : State), .reset ∉ events → .host (encode .crcClear) ∉ events →
    (s.schedule = .host (encode .crcClear) :: events → run (events.length + 1) s = .next t →
      t.crcAcc = crc16 (fedBytes events)) ∧
    (s.schedule = events → run events.length s = .next t →
      t.crcAcc = (fedBytes events).foldl byteStep s.crcAcc))

/-- R22: no step but a host's CRC_CLEAR or CRC_BYTE, and the RESET input, changes the accumulator. -/
def Obligations.OnlyCrcOperationsWriteAccumulator : Prop :=
  ∀ s t : State, step s = .next t → t.crcAcc ≠ s.crcAcc →
    ∃ ev rest, s.schedule = ev :: rest ∧
      (ev = .reset ∨ ev = .host (encode .crcClear) ∨ ∃ b, ev = .host (encode (.crcByte b)))

/-! ### The frame encoder -/

/-- R71: the SIMPLE frame of a payload of at most 254 bytes, offset by offset. -/
def Obligations.SimpleFrameLayout : Prop :=
  ∀ (c : Byte) (p : List Byte), p.length ≤ 254 → ∃ f, frameSimple c p = some f ∧
    f.length = p.length + 6 ∧
    f[0]? = some 0x02#8 ∧
    (∃ len, f[1]? = some len ∧ len.toNat = p.length + 1) ∧
    f[2]? = some c ∧
    (∀ k, k < p.length → f[3 + k]? = p[k]?) ∧
    (∃ hi lo, f[3 + p.length]? = some hi ∧ f[3 + p.length + 1]? = some lo ∧
      hi.toNat * 256 + lo.toNat = (crc16 (BitVec.ofNat 8 (p.length + 1) :: c :: p)).toNat) ∧
    f[5 + p.length]? = some 0x03#8

/-- R78, R72 and the encoder's half of R73: which header the EXTENDED encoder chooses from the declared length
`L = len(payload) + 1`, and the frame that follows it, offset by offset. -/
def Obligations.ExtFrameHeaderAndLayout : Prop :=
  ∀ (c : Byte) (p : List Byte),
    (65536 ≤ p.length + 1 → frameExt c p = none) ∧
    (p.length + 1 ≤ 65535 → ∃ hdr body f,
      frameExt c p = some f ∧ f = hdr ++ body ++ be16 (crc16 body) ++ [0x03#8] ∧ body = c :: p ∧
      (p.length + 1 ≤ 255 → f.length = p.length + 6 ∧
        ∃ len, hdr = [0x02#8, len] ∧ len.toNat = p.length + 1) ∧
      (256 ≤ p.length + 1 → f.length = p.length + 7 ∧
        ∃ hi lo, hdr = [0x03#8, hi, lo] ∧ hi.toNat * 256 + lo.toNat = p.length + 1))

/-- R74: the TELEMETRY frame of a payload of at most 65535 bytes, offset by offset. -/
def Obligations.TlmFrameLayout : Prop :=
  ∀ (c : Byte) (p : List Byte), p.length ≤ 65535 → ∃ f, frameTlm c p = some f ∧
    f.length = p.length + 5 ∧
    f[0]? = some c ∧
    (∃ hi lo, f[1]? = some hi ∧ f[2]? = some lo ∧ hi.toNat * 256 + lo.toNat = p.length ∧
      ∃ ch cl, f[3 + p.length]? = some ch ∧ f[3 + p.length + 1]? = some cl ∧
        ch.toNat * 256 + cl.toNat = (crc16 (c :: hi :: lo :: p)).toNat) ∧
    (∀ k, k < p.length → f[3 + k]? = p[k]?)

/-- R136, with R134 and R135: TX_ENCODE_SIMPLE (code 0x20) completes in every state.  An over-long payload gives TOO_LONG with nothing
emitted, on a closed link too; a closed link gives LINK_ERROR with nothing emitted; a write that succeeds appends the frame;
a write that fails after `k` bytes appends that prefix and gives LINK_ERROR.  Nothing else is written; which outcome the link
draws for a later write (`writeDraw`, the model's own) is left open. -/
def Obligations.TxEncodeSimpleOutcomes : Prop :=
  ∀ (c : Byte) (p : List Byte) (s : State),
    (Instr.txEncodeSimple c p).opCode.code = 0x20#8 ∧
    (254 < p.length →
      exec (.txEncodeSimple c p) s = .next { s with responses := s.responses ++ [.plain .tooLong] }) ∧
    (p.length ≤ 254 → s.linkOpen = false →
      exec (.txEncodeSimple c p) s = .next { s with responses := s.responses ++ [.plain .linkError] }) ∧
    (p.length ≤ 254 → s.linkOpen = true →
      ∀ cov f, cov = [BitVec.ofNat 8 (p.length + 1), c] ++ p →
        f = [0x02#8] ++ cov ++ be16 (crc16 cov) ++ [0x03#8] →
        (s.writeDraw = .ok → ∃ w, exec (.txEncodeSimple c p) s = .next { s with
          txLine := s.txLine ++ f, writeDraw := w, responses := s.responses ++ [.plain .ok] }) ∧
        (∀ k, k ≤ f.length → s.writeDraw = .fail k → ∃ w, exec (.txEncodeSimple c p) s = .next { s with
          txLine := s.txLine ++ f.take k, writeDraw := w, responses := s.responses ++ [.plain .linkError] }))

/-- R137, with R134 and R135: TX_ENCODE_EXT (code 0x21) completes in every state, as TX_ENCODE_SIMPLE does, with the EXTENDED bound and
frame; the short header is used to declared length 255 and the long header above. -/
def Obligations.TxEncodeExtOutcomes : Prop :=
  ∀ (c : Byte) (p : List Byte) (s : State),
    (Instr.txEncodeExt c p).opCode.code = 0x21#8 ∧
    (65534 < p.length →
      exec (.txEncodeExt c p) s = .next { s with responses := s.responses ++ [.plain .tooLong] }) ∧
    (p.length ≤ 65534 → s.linkOpen = false →
      exec (.txEncodeExt c p) s = .next { s with responses := s.responses ++ [.plain .linkError] }) ∧
    (p.length ≤ 65534 → s.linkOpen = true →
      ∀ hdr f, (p.length ≤ 254 → hdr = [0x02#8, BitVec.ofNat 8 (p.length + 1)]) →
        (254 < p.length →
          hdr = [0x03#8, BitVec.ofNat 8 ((p.length + 1) / 256), BitVec.ofNat 8 (p.length + 1)]) →
        f = hdr ++ [c] ++ p ++ be16 (crc16 (c :: p)) ++ [0x03#8] →
        (s.writeDraw = .ok → ∃ w, exec (.txEncodeExt c p) s = .next { s with
          txLine := s.txLine ++ f, writeDraw := w, responses := s.responses ++ [.plain .ok] }) ∧
        (∀ k, k ≤ f.length → s.writeDraw = .fail k → ∃ w, exec (.txEncodeExt c p) s = .next { s with
          txLine := s.txLine ++ f.take k, writeDraw := w, responses := s.responses ++ [.plain .linkError] }))

/-- R138, with R134 and R135: TX_ENCODE_TLM (code 0x22) completes in every state, as TX_ENCODE_SIMPLE does, with the TELEMETRY bound
and the undelimited frame. -/
def Obligations.TxEncodeTlmOutcomes : Prop :=
  ∀ (c : Byte) (p : List Byte) (s : State),
    (Instr.txEncodeTlm c p).opCode.code = 0x22#8 ∧
    (65535 < p.length →
      exec (.txEncodeTlm c p) s = .next { s with responses := s.responses ++ [.plain .tooLong] }) ∧
    (p.length ≤ 65535 → s.linkOpen = false →
      exec (.txEncodeTlm c p) s = .next { s with responses := s.responses ++ [.plain .linkError] }) ∧
    (p.length ≤ 65535 → s.linkOpen = true →
      ∀ cov f, cov = [c, BitVec.ofNat 8 (p.length / 256), BitVec.ofNat 8 p.length] ++ p →
        f = cov ++ be16 (crc16 cov) →
        (s.writeDraw = .ok → ∃ w, exec (.txEncodeTlm c p) s = .next { s with
          txLine := s.txLine ++ f, writeDraw := w, responses := s.responses ++ [.plain .ok] }) ∧
        (∀ k, k ≤ f.length → s.writeDraw = .fail k → ∃ w, exec (.txEncodeTlm c p) s = .next { s with
          txLine := s.txLine ++ f.take k, writeDraw := w, responses := s.responses ++ [.plain .linkError] }))

/-- R139: the lengths of a successful frame; and a SIMPLE frame and the EXTENDED short-header frame of the same id and
payload differ in their two CRC bytes only, and always differ there. -/
def Obligations.SimpleAndExtFramesDifferOnlyInCrc : Prop :=
  (∀ (v : Variant) (c : Byte) (p f : List Byte), frameOf v c p = some f →
    f.length = p.length +
      match v with
      | .simple => 6
      | .extended => if p.length ≤ 254 then 6 else 7
      | .telemetry => 5) ∧
  (∀ (c : Byte) (p : List Byte), p.length ≤ 254 → ∃ (front : List Byte) (crcSimple crcExt : Word),
    frameSimple c p = some (front ++ be16 crcSimple ++ [0x03#8]) ∧
    frameExt c p = some (front ++ be16 crcExt ++ [0x03#8]) ∧
    crcSimple ≠ crcExt) ∧
  frameSimple 0x04#8 [] = some [0x02#8, 0x01#8, 0x04#8, 0x73#8, 0xB5#8, 0x03#8] ∧
  frameExt 0x04#8 [] = some [0x02#8, 0x01#8, 0x04#8, 0x40#8, 0x84#8, 0x03#8]

/-- R36 and R56: `tx_line` only ever grows, by one contiguous run a step, and only a host's TX_ENCODE extends it, by a
prefix of its frame. -/
def Obligations.OnlyTxEncodeExtendsTheLine : Prop :=
  ∀ s t : State, step s = .next t →
    t.txLine = s.txLine ∨
    ∃ (v : Variant) (c : Byte) (p f : List Byte) (n : Nat) (request : List Byte) (rest : List Event) (i : Instr),
      s.schedule = .host request :: rest ∧ decode request = .ok i ∧
      (i = .txEncodeSimple c p ∧ v = .simple ∨ i = .txEncodeExt c p ∧ v = .extended ∨
        i = .txEncodeTlm c p ∧ v = .telemetry) ∧
      frameOf v c p = some f ∧ t.txLine = s.txLine ++ f.take n

/-! ### The decoder's host operations -/

/-- R163: on an idle decoder each RX_DECODE arms it, for its variant and with its expected id, and responds OK; it takes no
byte and does not consult the link.  On an armed one it responds BUSY and writes nothing.  The operations' codes, 0x30 to
0x32 and 0x34 to 0x36, are those R181 to R186 give. -/
def Obligations.RxDecodeArmsAnIdleDecoder : Prop :=
  ∀ (s : State) (expect : Byte) (i : Instr) (code : Byte) (v : Variant) (en : Bool) (id : Byte),
    (i, code, v, en, id) ∈
      [(Instr.rxDecodeSimple, 0x30#8, Variant.simple, false, 0x00#8),
       (.rxDecodeExt, 0x31#8, .extended, false, 0x00#8),
       (.rxDecodeTlm, 0x32#8, .telemetry, false, 0x00#8),
       (.rxDecodeSimpleExp expect, 0x34#8, .simple, true, expect),
       (.rxDecodeExtExp expect, 0x35#8, .extended, true, expect),
       (.rxDecodeTlmExp expect, 0x36#8, .telemetry, true, expect)] →
    i.opCode.code = code ∧
    (s.rxPhase = .idle → exec i s = .next { s with
      rxVariant := v, rxExpEn := en, rxExpId := id, rxResult := .pending,
      rxFrame := { commandId := 0x00#8, payload := [], crc := 0x0000#16 }, rxPhase := .start,
      responses := s.responses ++ [.plain .ok] }) ∧
    (s.rxPhase ≠ .idle → exec i s = .next { s with responses := s.responses ++ [.plain .busy] })

/-- R162: on an armed decoder every RX_DECODE responds BUSY and changes no state. -/
def Obligations.RxDecodeWhileArmedIsBusy : Prop :=
  ∀ (s : State) (expect : Byte) (i : Instr), s.rxPhase ≠ .idle →
    i ∈ [Instr.rxDecodeSimple, .rxDecodeExt, .rxDecodeTlm, .rxDecodeSimpleExp expect, .rxDecodeExtExp expect,
      .rxDecodeTlmExp expect] →
    exec i s = .next { s with responses := s.responses ++ [.plain .busy] }

/-- R178: RX_STATUS (code 0x40) responds OK with the phase's code (R24), the result's code (R201) and the frame, and writes nothing. -/
def Obligations.RxStatusReportsTheDecoder : Prop :=
  Instr.rxStatus.opCode.code = 0x40#8 ∧
  ∀ s : State, ∃ phase result : BitVec 4,
    exec .rxStatus s = .next { s with responses := s.responses ++ [.report phase result s.rxFrame] } ∧
    [RxPhase.idle, .start, .len1, .lenh, .lenl, .data, .crch, .crcl, .endByte][phase.toNat]? = some s.rxPhase ∧
    [RxResult.none, .pending, .frame, .noData, .badStart, .truncated, .badEnd, .emptyBody, .badCrc, .unexpectedId,
      .linkError][result.toNat]? = some s.rxResult

/-- R242 and R39: no host operation aborts or disturbs a decode in progress, or takes a byte from the queue. -/
def Obligations.HostOperationsLeaveADecodeAlone : Prop :=
  ∀ (i : Instr) (s : State), s.rxPhase ≠ .idle → ∃ t, exec i s = .next t ∧ SameDecoder s t

/-- R80: a host operation, a reserved code included, gives exactly one response; no other agent's step gives any. -/
def Obligations.OneResponsePerHostOperation : Prop :=
  ∀ s t : State, step s = .next t →
    (∀ request rest, s.schedule = .host request :: rest → ∃ r, t.responses = s.responses ++ [r]) ∧
    ((∀ request rest, s.schedule ≠ .host request :: rest) → t.responses = s.responses)

/-! ### The decoder's own steps -/

/-- R165: armed on a closed link, the decoder's step is the finish LINK_ERROR, in whatever phase. -/
def Obligations.ClosedLinkFinishesTheDecode : Prop :=
  ∀ s : State, s.rxPhase ≠ .idle → s.linkOpen = false →
    decoderStep s = .next (finished .linkError { commandId := 0x00#8, payload := [], crc := 0x0000#16 } s)

/-- On an empty queue of an open link an armed decoder waits (R161), and a timeout finishes the decode NO_DATA in phase START
and TRUNCATED in every later phase (R167).  Once a byte has been appended the timeout is not enabled (R167); that a timeout
which is not enabled passes with the state unchanged, as the last clause says, is the model's choice (log 1). -/
def Obligations.TimeoutFinishesAWaitingDecode : Prop :=
  ∀ s : State, s.rxPhase ≠ .idle → s.linkOpen = true → s.rxQueue = [] →
    decoderStep s = .next s ∧
    timeoutStep s = finished (if s.rxPhase = .start then .noData else .truncated)
      { commandId := 0x00#8, payload := [], crc := 0x0000#16 } s ∧
    ∀ b, timeoutStep (linkByteStep b s) = { s with rxQueue := [b] }

/-- R161: an idle decoder has no step, and a decoder waiting on an empty queue of an open link takes none; a timeout that
is not enabled does nothing.  The model lets such a step pass with the state unchanged (log 1). -/
def Obligations.StepsNotEnabledChangeNothing : Prop :=
  ∀ s : State,
    (s.rxPhase = .idle → decoderStep s = .next s) ∧
    (s.linkOpen = true → s.rxQueue = [] → decoderStep s = .next s) ∧
    (s.rxPhase = .idle ∨ s.linkOpen = false ∨ s.rxQueue ≠ [] → timeoutStep s = s)

/-- R168: what phase START does with the leading byte, variant by variant. -/
def Obligations.LeadingByteSelectsThePhase : Prop :=
  ∀ (s : State) (b : Byte) (q : List Byte),
    s.rxPhase = .start → s.linkOpen = true → s.rxQueue = b :: q →
    (s.rxVariant = .simple → b = 0x02#8 → decoderStep s = .next { s with rxQueue := q, rxPhase := .len1 }) ∧
    (s.rxVariant = .extended → b = 0x02#8 → decoderStep s = .next { s with rxQueue := q, rxPhase := .len1 }) ∧
    (s.rxVariant = .extended → b = 0x03#8 → decoderStep s = .next { s with rxQueue := q, rxPhase := .lenh }) ∧
    (s.rxVariant = .telemetry → decoderStep s = .next { s with rxQueue := q, rxId := b, rxPhase := .lenh }) ∧
    (s.rxVariant = .simple ∧ b ≠ 0x02#8 ∨ s.rxVariant = .extended ∧ b ≠ 0x02#8 ∧ b ≠ 0x03#8 →
      decoderStep s = .next
        (finished .badStart { commandId := 0x00#8, payload := [], crc := 0x0000#16 } { s with rxQueue := q }))

/-- R169, R170 and R171: the one-byte length field, and the two bytes of a two-byte one, first byte high; a declared
length of 0 skips DATA.  The high byte is the first of the field once the low byte has been appended. -/
def Obligations.LengthBytesAreTaken : Prop :=
  ∀ (s : State) (b : Byte) (q : List Byte), s.linkOpen = true → s.rxQueue = b :: q →
    (s.rxPhase = .len1 → decoderStep s = .next { s with
      rxQueue := q, rxLenbytes := [b], rxLen := BitVec.ofNat 16 b.toNat,
      rxPhase := if b.toNat = 0 then .crch else .data }) ∧
    (s.rxPhase = .lenh → decoderStep s = .next { s with rxQueue := q, rxLenbytes := [b], rxPhase := .lenl }) ∧
    (s.rxPhase = .lenl → ∀ hi tail, s.rxLenbytes ++ [b] = hi :: tail → decoderStep s = .next { s with
      rxQueue := q, rxLenbytes := hi :: tail, rxLen := BitVec.ofNat 16 (hi.toNat * 256 + b.toNat),
      rxPhase := if hi.toNat * 256 + b.toNat = 0 then .crch else .data })

/-- R172: phase DATA appends the byte, and ends when the buffer holds `rx_len` bytes; a state that meets the invariant is in
DATA only with `rx_len` at least 1 and bytes still to take. -/
def Obligations.DataByteIsAppended : Prop :=
  ∀ (s : State) (b : Byte) (q : List Byte),
    s.rxPhase = .data → s.linkOpen = true → s.rxQueue = b :: q →
    decoderStep s = .next { s with
      rxQueue := q, rxData := s.rxData ++ [b],
      rxPhase := if s.rxData.length + 1 = s.rxLen.toNat then .crch else .data } ∧
    (Consistent s → 1 ≤ s.rxLen.toNat ∧ s.rxData.length < s.rxLen.toNat)

/-- R173, the steps before the judgement: the CRC's high byte, and for SIMPLE and EXTENDED its low byte, which give
`hi * 256 + lo` (R75). -/
def Obligations.CrcBytesAreTaken : Prop :=
  ∀ (s : State) (b : Byte) (q : List Byte), s.linkOpen = true → s.rxQueue = b :: q →
    (s.rxPhase = .crch → decoderStep s = .next { s with
      rxQueue := q, rxCrc := BitVec.ofNat 16 (b.toNat * 256), rxPhase := .crcl }) ∧
    (s.rxPhase = .crcl → s.rxVariant ≠ .telemetry → lowByte s.rxCrc = 0x00#8 → decoderStep s = .next { s with
      rxQueue := q, rxCrc := BitVec.ofNat 16 (s.rxCrc.toNat + b.toNat), rxPhase := .endByte })

/-- R174 (with the order of R204).  SIMPLE and EXTENDED: the END byte is taken, and the first failing check of END, length,
CRC and expected id decides; a frame that fails none is accepted with its id, payload and CRC.  TELEMETRY, which has no
terminator: the CRC's low byte is taken, and the CRC and then the expected id decide. -/
def Obligations.JudgementChecksInOrder : Prop :=
  (∀ (s : State) (b : Byte) (q : List Byte),
    Consistent s → s.rxPhase = .endByte → s.linkOpen = true → s.rxQueue = b :: q →
    ∃ r f, decoderStep s = .next (finished r f { s with rxQueue := q }) ∧
      (r ≠ .frame → f = { commandId := 0x00#8, payload := [], crc := 0x0000#16 }) ∧
      (b ≠ 0x03#8 → r = .badEnd) ∧
      (b = 0x03#8 → s.rxLen = 0#16 → r = .emptyBody) ∧
      (b = 0x03#8 → s.rxLen ≠ 0#16 → ∃ c p cov, s.rxData = c :: p ∧
        (s.rxVariant = .simple → cov = s.rxLenbytes ++ s.rxData) ∧
        (s.rxVariant = .extended → cov = s.rxData) ∧
        (crc16 cov ≠ s.rxCrc → r = .badCrc) ∧
        (crc16 cov = s.rxCrc → s.rxExpEn = true → c ≠ s.rxExpId → r = .unexpectedId) ∧
        (crc16 cov = s.rxCrc → s.rxExpEn = false ∨ c = s.rxExpId →
          r = .frame ∧ f = { commandId := c, payload := p, crc := s.rxCrc }))) ∧
  (∀ (s : State) (b : Byte) (q : List Byte),
    Consistent s → s.rxPhase = .crcl → s.rxVariant = .telemetry → s.linkOpen = true → s.rxQueue = b :: q →
    ∃ r f, decoderStep s = .next (finished r f { s with rxQueue := q }) ∧
      (r ≠ .frame → f = { commandId := 0x00#8, payload := [], crc := 0x0000#16 }) ∧
      ∀ cov crc, cov = [s.rxId] ++ s.rxLenbytes ++ s.rxData → crc = BitVec.ofNat 16 (s.rxCrc.toNat + b.toNat) →
        (crc16 cov ≠ crc → r = .badCrc) ∧
        (crc16 cov = crc → s.rxExpEn = true → s.rxId ≠ s.rxExpId → r = .unexpectedId) ∧
        (crc16 cov = crc → s.rxExpEn = false ∨ s.rxId = s.rxExpId →
          r = .frame ∧ f = { commandId := s.rxId, payload := s.rxData, crc := crc }))

/-- R175: whichever step ends a decode, unless it is RESET, it records a final result, clears the frame unless the result
is FRAME, clears the partial fields, and keeps the variant and the expected id. -/
def Obligations.FinishClearsThePartialFields : Prop :=
  ∀ s t : State, step s = .next t → s.rxPhase ≠ .idle → t.rxPhase = .idle →
    (∀ rest, s.schedule ≠ .reset :: rest) →
    t.rxResult ≠ .none ∧ t.rxResult ≠ .pending ∧
    (t.rxResult ≠ .frame → t.rxFrame = { commandId := 0x00#8, payload := [], crc := 0x0000#16 }) ∧
    t.rxId = 0x00#8 ∧ t.rxLenbytes = [] ∧ t.rxLen = 0#16 ∧ t.rxData = [] ∧ t.rxCrc = 0x0000#16 ∧ t.rxEnd = 0x00#8 ∧
    t.rxVariant = s.rxVariant ∧ t.rxExpEn = s.rxExpEn ∧ t.rxExpId = s.rxExpId

/-- R57, R58 and R166: a step of the decoder takes at most one byte, and only from the head of the queue; taken bytes are never
put back. -/
def Obligations.DecoderTakesOnlyTheHead : Prop :=
  ∀ s : State, Consistent s → ∃ t, decoderStep s = .next t ∧
    (s.rxPhase ≠ .idle → s.linkOpen = true → t.rxQueue = s.rxQueue.drop 1) ∧
    (s.rxPhase = .idle ∨ s.linkOpen = false → t.rxQueue = s.rxQueue)

/-- R190: neither a decoder step nor a timeout reads or writes `crc_acc`, `tx_line`, or anything else outside the decoder's
fields, the queue and the link state, and neither writes the link state: on two states that agree in those it does the same
to both, and leaves the rest of each alone.  And earlier decodes leave no trace but queued bytes: two idle decoders with the
same queue and link state are the same once armed alike. -/
def Obligations.DecodeIsIndependentOfTheRest : Prop :=
  (∀ s u t : State, SameDecoder s u → decoderStep s = .next t →
    SameElsewhere s t ∧ t.linkOpen = s.linkOpen ∧
    ∃ w, decoderStep u = .next w ∧ SameDecoder t w ∧ SameElsewhere u w) ∧
  (∀ s u : State, SameDecoder s u →
    SameElsewhere s (timeoutStep s) ∧ (timeoutStep s).linkOpen = s.linkOpen ∧
    SameDecoder (timeoutStep s) (timeoutStep u)) ∧
  (∀ (s u : State) (v : Variant) (en : Bool) (id : Byte),
    Consistent s → Consistent u → s.rxPhase = .idle → u.rxPhase = .idle →
    s.linkOpen = u.linkOpen → s.rxQueue = u.rxQueue → SameDecoder (arm v en id s) (arm v en id u))

/-! ### Whole decodes -/

/-- R176 and R177, on an open link: where the queue holds as many bytes as its leading bytes call for, the decode takes
exactly those, one a step, stays armed until the last one, and finishes with FRAME or a rejection; the bytes after them stay. -/
def Obligations.DecodeTakesExactlyItsExtent : Prop :=
  ∀ (s : State) (n : Nat),
    Consistent s → s.schedule = [] → s.linkOpen = true → s.rxPhase = .start →
    decodeExtent s.rxVariant s.rxQueue = some n → n ≤ s.rxQueue.length →
    n ≤ 65541 ∧
    (∀ m, m < n → ∃ u, run m s = .next u ∧ u.rxPhase ≠ .idle ∧ u.rxQueue = s.rxQueue.drop m) ∧
    ∃ t, run n s = .next t ∧ t.rxPhase = .idle ∧ t.rxQueue = s.rxQueue.drop n ∧
      (n = 1 → t.rxResult = .badStart) ∧
      (n ≠ 1 → t.rxResult ∈ [RxResult.frame, .badEnd, .emptyBody, .badCrc, .unexpectedId]) ∧
      (s.rxVariant = .telemetry → t.rxResult ∈ [RxResult.frame, .badCrc, .unexpectedId])

/-- R167 and R176: where the queue holds fewer bytes than the frame calls for, the decode takes them all and waits, and a
timeout then finishes it NO_DATA where there was none and TRUNCATED otherwise. -/
def Obligations.ShortStreamEndsInTimeout : Prop :=
  ∀ s : State,
    Consistent s → s.schedule = [] → s.linkOpen = true → s.rxPhase = .start →
    (∀ n, decodeExtent s.rxVariant s.rxQueue = some n → s.rxQueue.length < n) →
    ∃ u, run s.rxQueue.length s = .next u ∧ u.rxPhase ≠ .idle ∧ u.rxQueue = [] ∧
      step u = .next u ∧
      ∃ t, step { u with schedule := [.timeout] } = .next t ∧ t.rxPhase = .idle ∧
        t.rxResult = if s.rxQueue = [] then .noData else .truncated

/-- R187, round trip: an armed decoder on an open link, with no expected id or with the frame's own, whose queue begins with
any frame the encoder makes of its variant, accepts it, returns its id, payload and CRC, takes exactly its bytes, and is
never waiting before the last of them. -/
def Obligations.EveryEncodedFrameDecodes : Prop :=
  ∀ (v : Variant) (c : Byte) (p f rest : List Byte) (s : State),
    frameOf v c p = some f →
    Consistent s → s.schedule = [] → s.linkOpen = true → s.rxPhase = .start → s.rxVariant = v →
    s.rxExpEn = false ∨ s.rxExpId = c → s.rxQueue = f ++ rest →
    run f.length s = .next { s with
      rxPhase := .idle, rxResult := .frame, rxQueue := rest,
      rxFrame := { commandId := c, payload := p, crc := crc16 (coveredOf v c p) } } ∧
    ∀ m, m < f.length → ∃ u, run m s = .next u ∧ u.waiting = false

/-- R188, corruption detection: with exactly one bit of the id, the payload or the CRC of such a frame flipped, the decode
finishes BAD_CRC, after the same number of bytes, whatever id is expected. -/
def Obligations.EveryFlippedBitIsRejected : Prop :=
  ∀ (v : Variant) (c : Byte) (p f rest : List Byte) (s : State) (i j : Nat),
    frameOf v c p = some f → protectedByte v p i → j < 8 →
    Consistent s → s.schedule = [] → s.linkOpen = true → s.rxPhase = .start → s.rxVariant = v →
    s.rxQueue = flipBit f i j ++ rest →
    run f.length s = .next { s with rxPhase := .idle, rxResult := .badCrc, rxQueue := rest, rxFrame := Frame.cleared }

/-- R189, SIMPLE/EXTENDED confusion: a SIMPLE frame decoded as EXTENDED, and an EXTENDED short-header frame decoded as SIMPLE, are
taken whole and finish BAD_CRC; an EXTENDED long-header frame decoded as SIMPLE finishes BAD_START after one byte. -/
def Obligations.SimpleExtConfusionIsRejected : Prop :=
  ∀ (c : Byte) (p f rest : List Byte) (s : State),
    Consistent s → s.schedule = [] → s.linkOpen = true → s.rxPhase = .start → s.rxQueue = f ++ rest →
    (frameSimple c p = some f → s.rxVariant = .extended →
      run f.length s = .next
        { s with rxPhase := .idle, rxResult := .badCrc, rxQueue := rest, rxFrame := Frame.cleared }) ∧
    (frameExt c p = some f → p.length ≤ 254 → s.rxVariant = .simple →
      run f.length s = .next
        { s with rxPhase := .idle, rxResult := .badCrc, rxQueue := rest, rxFrame := Frame.cleared }) ∧
    (frameExt c p = some f → 254 < p.length → s.rxVariant = .simple →
      run 1 s = .next
        { s with rxPhase := .idle, rxResult := .badStart, rxQueue := f.drop 1 ++ rest, rxFrame := Frame.cleared })

/-- On the model's own fair decoder (DESIGN CHOICE, log 12), in which a decoder that finds the queue of an open link empty
draws the timeout at once and no byte arrives later, a decode ends after at most 65542 steps, the bound R179 gives every fair
decode: 65541 takes and one final step.  This is one fair run of those R179 speaks of, from every state; EveryFairDecodeFinishes speaks of all of them.
Without a draw a decoder that waits on an empty queue waits for ever; that its waiting steps pass with the state unchanged is
the model's choice as well (log 1). -/
def Obligations.FairDecodeFinishes : Prop :=
  (∀ s : State, Consistent s → s.rxPhase ≠ .idle →
    ∃ n t, n ≤ 65542 ∧ repeatStep fairDecoderStep n s = .next t ∧ t.rxPhase = .idle ∧ t.rxResult ≠ .pending) ∧
  (∀ (s : State) (n : Nat), s.waiting = true → s.schedule = [] → run n s = .next s)

/-- The model's `rx.wait` (DESIGN CHOICE, log 12), in which exactly one step of the model's fair decoder stands between two
RX_STATUS, ends with RX_STATUS reporting phase IDLE.  R86 gives the repetition of RX_STATUS and says that it ends under the
fairness of R179, and fixes no number of decoder steps between two of them; RxWaitEndsInEveryFairRun leaves it open. -/
def Obligations.RxWaitEndsWithIdle : Prop :=
  ∀ s : State, Consistent s → ∃ n t, n ≤ 65542 ∧ rxWait n s = .next t ∧ t.rxPhase = .idle ∧
    ∃ result, t.responses.getLast? = some (.report 0 result t.rxFrame)

/-! ### The link, reset, and the whole machine -/

/-- The link's steps and the transport's flushes.  By R180, opening changes only the link state, closing also empties the
queue, a byte is appended on an open link and lost on a closed one, and a flush of the input empties the queue.
The model's choices: a drawn write outcome is held in `writeDraw` for the next write (log 4); the flushes are lists of steps
(log 12), so a flush of the input on an open link leaves it open and changes nothing but the queue (log 15), and a flush of
the output is no step at all. -/
def Obligations.LinkStepsChangeLinkAndQueueOnly : Prop :=
  ∀ (s : State) (b : Byte) (w : WriteOutcome) (rest : List Event),
    (s.schedule = .linkOpen :: rest → step s = .next { s with schedule := rest, linkOpen := true }) ∧
    (s.schedule = .linkClose :: rest → step s = .next { s with schedule := rest, linkOpen := false, rxQueue := [] }) ∧
    (s.schedule = .linkByte b :: rest → s.linkOpen = true →
      step s = .next { s with schedule := rest, rxQueue := s.rxQueue ++ [b] }) ∧
    (s.schedule = .linkByte b :: rest → s.linkOpen = false → step s = .next { s with schedule := rest }) ∧
    (s.schedule = flushInput ++ rest → s.linkOpen = true →
      run flushInput.length s = .next { s with schedule := rest, rxQueue := [] }) ∧
    (s.schedule = .drawWrite w :: rest → step s = .next { s with schedule := rest, writeDraw := w }) ∧
    (s.schedule = flushOutput ++ rest → run flushOutput.length s = .next s)

/-- R230 and R231: RESET gives every block field its reset value, a decode in progress included, whose result is NONE, and
leaves the link, the queue and the line as they are. -/
def Obligations.ResetInputResetsTheBlockOnly : Prop :=
  ∀ (s : State) (rest : List Event), s.schedule = .reset :: rest →
    step s = .next { State.reset with
      linkOpen := s.linkOpen, rxQueue := s.rxQueue, txLine := s.txLine,
      writeDraw := s.writeDraw, schedule := rest, responses := s.responses }

/-- R233 and R41: the start state. -/
def Obligations.ResetStateIsTheStartState : Prop :=
  State.reset.crcAcc = 0x0000#16 ∧ State.reset.crcBit = 0 ∧ State.reset.rxPhase = .idle ∧
  State.reset.rxVariant.code = 0 ∧ State.reset.rxExpEn = false ∧ State.reset.rxExpId = 0x00#8 ∧
  State.reset.rxId = 0x00#8 ∧ State.reset.rxLenbytes = [] ∧ State.reset.rxLen = 0#16 ∧ State.reset.rxData = [] ∧
  State.reset.rxCrc = 0x0000#16 ∧ State.reset.rxEnd = 0x00#8 ∧ State.reset.rxResult = .none ∧
  State.reset.rxFrame = { commandId := 0x00#8, payload := [], crc := 0x0000#16 } ∧
  State.reset.linkOpen = false ∧ State.reset.rxQueue = [] ∧ State.reset.txLine = []

/-- The invariant holds in the start state. -/
def Obligations.InvariantHoldsAtReset : Prop := Consistent State.reset

/-- Every step of every agent keeps the invariant, from every state that meets it. -/
def Obligations.EveryStepKeepsTheInvariant : Prop :=
  ∀ s t : State, Consistent s → step s = .next t → Consistent t

/-- R200 and R232: from every state that meets the invariant a step answers a next state, whichever agent takes it, unless
the host hands over a malformed request (log 2); in particular it never faults. -/
def Obligations.NoTrapAndEveryOperationAccepted : Prop :=
  ∀ s : State, Consistent s →
    (∀ request rest, s.schedule = .host request :: rest →
      requestWf request = true ∨ ∃ op args, request = op :: args ∧ reservedCode op) →
    ∃ t, step s = .next t

/-- Whatever the decoder has accepted is a frame the encoder makes: in every state that meets the invariant and holds the
result FRAME, the encoder of the variant makes a frame of the id and the payload held, and the CRC held is that frame's. -/
def Obligations.AcceptedFramesAreEncodable : Prop :=
  ∀ s : State, Consistent s → s.rxResult = .frame →
    ∃ front tail, frameOf s.rxVariant s.rxFrame.commandId s.rxFrame.payload =
      some (front ++ be16 s.rxFrame.crc ++ tail) ∧
      (s.rxVariant = .telemetry → tail = []) ∧ (s.rxVariant ≠ .telemetry → tail = [0x03#8])

/-! ### Fair runs -/

/-- R179: in every fair run, with bytes, operations and link steps coming between the decoder's own as they may, every decode
finishes, after at most 65541 takes and one final step, or is abandoned by RESET (R231).  Fairness kind by kind (FairRun)
comes with a link that does not close without end; without that premise fairness is the decoder's as one agent
(JointlyFairRun).  That R179 is read so is the model's choice (log 16). -/
def Obligations.EveryFairDecodeFinishes : Prop :=
  ∀ (events : Nat → Event) (states : Nat → State) (n : Nat),
    FairRun events states ∧ LinkSettles events ∨ JointlyFairRun events states →
    Consistent (states n) → (states n).rxPhase ≠ .idle → DecodeFinishes events states n

/-- R86 under R179's fairness: where the host, from a step on, issues RX_STATUS again and again and nothing else, one of them
reports phase IDLE, in every fair run, however many decoder steps lie between two of them.  The fairness is read as log 16
says. -/
def Obligations.RxWaitEndsInEveryFairRun : Prop :=
  ∀ (events : Nat → Event) (states : Nat → State) (n : Nat),
    FairRun events states ∧ LinkSettles events ∨ JointlyFairRun events states →
    Consistent (states n) →
    (∀ m request, n ≤ m → events m = .host request → request = encode .rxStatus) →
    (∀ m, n ≤ m → ∃ k, m ≤ k ∧ events k = .host (encode .rxStatus)) →
    ∃ m, n ≤ m ∧ events m = .host (encode .rxStatus) ∧
      ∃ result, (states (m + 1)).responses.getLast? = some (.report 0 result (states m).rxFrame)
end

