-- ==== Sys2Proof/Config.lean ====
section
/-! DEFINITION. Sys2Proof/Config.lean: the named parameters that spec/00_scope.md rule R9 leaves `OPEN`.

They have no body, so nothing in Lean can evaluate them.  R9 and R247 say that no rule depends on any of
them, and accordingly no definition of the model reads one (assumption log 6).  The parameters whose value
R9 states (polynomial, delimiters, bounds) are in Machine/Params.lean. -/

namespace Sys2Proof.Config

/-- One less than `CRC_CYCLES_PER_BYTE`, which R9 lets be any value from 1 to 8 (decision D8; timing only). -/
opaque crcExtraCycles : Fin 8

/-- `CRC_CYCLES_PER_BYTE` of R9 and R247: from 1 to 8, timing only. -/
def crcCyclesPerByte : Nat := crcExtraCycles.val + 1

/-- `T_FIELD` of R9 and R209: the duration of the per-field read timeout, in milliseconds.
The timeout itself is the timer's draw (`Machine.Event.timeout`), enabled whatever this value is. -/
opaque tFieldMilliseconds : Nat

/-- `BAUD` of R9, R210 and R247: the link's rate; outside the block. -/
opaque baud : Nat

end Sys2Proof.Config
end

