-- ==== Sys2Proof/Laws/Crc.lean ====
section
/-! SUPPORT. Sys2Proof/Laws/Crc.lean: the bit step and the byte step are linear over XOR, and lose nothing. -/

namespace Sys2Proof.Machine

theorem shiftStep_xor (a b : Word) : shiftStep (a ^^^ b) = shiftStep a ^^^ shiftStep b := by
  unfold shiftStep
  rw [BitVec.getLsbD_xor]
  cases ha : a.getLsbD 15 <;> cases hb : b.getLsbD 15 <;> simp [BitVec.shiftLeft_xor_distrib]
  · rw [BitVec.xor_assoc]
  · rw [BitVec.xor_assoc, BitVec.xor_assoc, BitVec.xor_comm crcPolynomial]
  · rw [BitVec.xor_assoc, BitVec.xor_comm crcPolynomial, BitVec.xor_assoc, BitVec.xor_self, BitVec.xor_zero]

theorem shiftStep_iterate_xor (n : Nat) (a b : Word) :
    shiftStep^[n] (a ^^^ b) = shiftStep^[n] a ^^^ shiftStep^[n] b := by
  induction n generalizing a b with
  | zero => rfl
  | succ n ih => simp [shiftStep_xor, ih]

theorem bitSteps_fst (n : Nat) (p : Word × Fin 9) : (bitSteps n p).1 = shiftStep^[n] p.1 := by
  induction n generalizing p with
  | zero => rfl
  | succ n ih => simp [bitSteps, ih]

/-- `crc_bit` counts the bit steps, modulo nine; after a byte's eight it stands at 8, and CRC_BYTE puts it back (R23, R108). -/
theorem byteSteps_snd (a : Word) (b : Byte) : (byteSteps a b).2 = 8 := rfl

theorem byteStep_eq (a : Word) (b : Byte) : byteStep a b = shiftStep^[8] (a ^^^ inHighByte b) := by
  rw [byteStep, byteSteps, bitSteps_fst]
  rfl

theorem inHighByte_xor (a b : Byte) : inHighByte (a ^^^ b) = inHighByte a ^^^ inHighByte b := by
  simp [inHighByte, zext16, BitVec.shiftLeft_xor_distrib]

theorem byteStep_xor (a b : Word) (c d : Byte) : byteStep (a ^^^ b) (c ^^^ d) = byteStep a c ^^^ byteStep b d := by
  simp only [byteStep_eq, inHighByte_xor, ← shiftStep_iterate_xor]
  congr 1
  ac_rfl

@[simp] theorem byteStep_zero : byteStep 0x0000#16 0x00#8 = 0x0000#16 := by decide

/-- The polynomial's lowest bit is 1, so a bit step is zero only on zero. -/
theorem shiftStep_eq_zero (a : Word) (h : shiftStep a = 0x0000#16) : a = 0x0000#16 := by
  have key : ∀ i, (shiftStep a).getLsbD i = false := by rw [h]; simp
  unfold shiftStep crcPolynomial at key
  by_cases hh : a.getLsbD 15 = true
  · have := key 0
    simp [hh] at this
  · apply BitVec.eq_of_getLsbD_eq
    intro i hi
    by_cases h15 : i = 15
    · subst h15; simpa using hh
    · have := key (i + 1)
      rw [if_neg hh, BitVec.getLsbD_shiftLeft] at this
      simp at this
      simpa using this (by omega)

theorem shiftStep_iterate_eq_zero (n : Nat) (a : Word) (h : shiftStep^[n] a = 0x0000#16) : a = 0x0000#16 := by
  induction n generalizing a with
  | zero => exact h
  | succ n ih => exact shiftStep_eq_zero a (ih _ h)

/-- Two accumulators that agree after the same byte agreed before it. -/
theorem byteStep_left_injective {a b : Word} {c : Byte} (h : byteStep a c = byteStep b c) : a = b := by
  have h2 := byteStep_xor a b c c
  rw [h] at h2
  simp at h2
  rw [byteStep_eq] at h2
  have h3 := shiftStep_iterate_eq_zero _ _ h2
  simp [inHighByte, zext16] at h3
  have h4 : a ^^^ b ^^^ b = b := by rw [h3]; simp
  rwa [BitVec.xor_assoc, BitVec.xor_self, BitVec.xor_zero] at h4

/-- Two different bytes take one accumulator to two different ones. -/
theorem byteStep_right_injective {a : Word} {b c : Byte} (h : byteStep a b = byteStep a c) : b = c := by
  have h3 := byteStep_xor a a b c
  rw [h, BitVec.xor_self, BitVec.xor_self, byteStep_eq] at h3
  have h4 := shiftStep_iterate_eq_zero _ _ h3
  have h5 : ∀ d : Byte, 0x0000#16 ^^^ inHighByte d = 0x0000#16 → d = 0 := by decide
  have h6 : b ^^^ c ^^^ c = c := by rw [h5 _ h4]; simp
  rwa [BitVec.xor_assoc, BitVec.xor_self, BitVec.xor_zero] at h6

theorem foldl_byteStep_injective (x : List Byte) {a b : Word} (h : x.foldl byteStep a = x.foldl byteStep b) : a = b := by
  induction x generalizing a b with
  | nil => exact h
  | cons c x ih => exact byteStep_left_injective (ih h)

@[simp] theorem crc16_nil : crc16 [] = 0x0000#16 := rfl

theorem crc16_cons (b : Byte) (x : List Byte) : crc16 (b :: x) = x.foldl byteStep (byteStep 0x0000#16 b) := rfl

/-- Feeding an accumulator its own two bytes, the high one first, takes it to zero (the residue law of R105). -/
theorem byteStep_own_bytes (a : Word) : byteStep (byteStep a (highByte a)) (lowByte a) = 0x0000#16 := by
  have h1 : a ^^^ inHighByte (highByte a) = zext16 (lowByte a) := by
    apply BitVec.eq_of_getLsbD_eq
    intro i hi
    simp [inHighByte, highByte, lowByte, zext16]
    by_cases h8 : i < 8
    · simp [h8]; omega
    · have : 8 + (i - 8) = i := by omega
      simp [h8, hi, this, show i - 8 < 8 by omega, show i - 8 < 16 by omega]
  have h2 : ∀ b : Byte, shiftStep^[8] (zext16 b) = inHighByte b := by decide
  rw [byteStep_eq a, h1, h2, byteStep_eq, BitVec.xor_self]
  decide

end Sys2Proof.Machine
end

