-- ==== Sys2Proof/Laws/Decode.lean ====
section
/-! SUPPORT. Sys2Proof/Laws/Decode.lean: what the parts of the decoder can answer. -/

namespace Sys2Proof

/-- The two readings of R81's code column are inverse to each other. -/
theorem OpCode.ofByte_iff : ∀ (op : Byte) (o : OpCode), OpCode.ofByte op = some o ↔ op = o.code := by
  intro op o
  revert op
  cases o <;> decide

@[simp] theorem OpCode.ofByte_code (o : OpCode) : OpCode.ofByte o.code = some o := (OpCode.ofByte_iff _ _).2 rfl

theorem OpCode.code_injective {o o' : OpCode} (h : o.code = o'.code) : o = o' :=
  Option.some.inj ((OpCode.ofByte_code o).symm.trans (h ▸ OpCode.ofByte_code o'))

/-- The table and the bit fields of R81 list the same codes. -/
theorem operandShape_eq_none_iff : ∀ op : Byte, operandShape op = none ↔ OpCode.ofByte op = none := by
  decide

theorem requestWf_of_operandShape {op : Byte} {args : List Byte} {shape : OperandShape}
    (h : operandShape op = some shape) (hf : shape.fits args = true) : requestWf (op :: args) = true := by
  simp [requestWf, h, hf]

theorem noOperand_eq_some_iff {i j : Instr} {args : List Byte} :
    noOperand i args = some j ↔ args = [] ∧ j = i := by
  cases args <;> simp [noOperand, eq_comm]

theorem byteOperand_eq_some_iff {mk : Byte → Instr} {j : Instr} {args : List Byte} :
    byteOperand mk args = some j ↔ ∃ b, args = [b] ∧ j = mk b := by
  rcases args with _ | ⟨b, _ | ⟨c, r⟩⟩ <;> simp [byteOperand, eq_comm]

theorem payloadOperand_eq_some_iff {mk : Byte → List Byte → Instr} {j : Instr} {args : List Byte} :
    payloadOperand mk args = some j ↔ ∃ c p, args = c :: p ∧ j = mk c p := by
  rcases args with _ | ⟨c, p⟩ <;> simp [payloadOperand, eq_comm]

/-- The operand column of R81's table gives each operation its own mnemonic and operands, and nothing else. -/
theorem decodeOperands_eq_some_iff {o : OpCode} {args : List Byte} {i : Instr} :
    decodeOperands o args = some i ↔ o = i.opCode ∧ args = i.operands := by
  cases o <;> cases i <;>
    simp [decodeOperands, noOperand_eq_some_iff, byteOperand_eq_some_iff, payloadOperand_eq_some_iff, Instr.opCode,
      Instr.operands]

/-- A reserved code is rejected by name, whatever operands follow it (R83). -/
theorem decode_reserved {op : Byte} (args : List Byte) (h : OpCode.ofByte op = none) :
    decode (op :: args) = .error (.reservedOp op) := by
  simp [decode, h]

/-- Only a reserved code is rejected as one. -/
theorem decode_reservedOp_inv {request : List Byte} {op : Byte} (h : decode request = .error (.reservedOp op)) :
    ∃ args, request = op :: args ∧ OpCode.ofByte op = none := by
  rcases request with _ | ⟨o, args⟩
  · simp [decode] at h
  · simp only [decode] at h
    split at h
    next ho => cases h; exact ⟨args, rfl, ho⟩
    · split at h <;> simp at h

end Sys2Proof
end

