-- ==== Sys2Proof/Laws/State.lean ====
section
/-! SUPPORT. Sys2Proof/Laws/State.lean: one lemma per field per update of State, so that no proof unfolds a record update. -/

namespace Sys2Proof.Machine

/-! ### `State.respond`: a response writes the record of responses only (R37, R80) -/

@[simp] theorem State.respond_crcAcc (s : State) (r : Response) : (s.respond r).crcAcc = s.crcAcc := rfl
@[simp] theorem State.respond_crcBit (s : State) (r : Response) : (s.respond r).crcBit = s.crcBit := rfl
@[simp] theorem State.respond_rxPhase (s : State) (r : Response) : (s.respond r).rxPhase = s.rxPhase := rfl
@[simp] theorem State.respond_rxVariant (s : State) (r : Response) : (s.respond r).rxVariant = s.rxVariant := rfl
@[simp] theorem State.respond_rxExpEn (s : State) (r : Response) : (s.respond r).rxExpEn = s.rxExpEn := rfl
@[simp] theorem State.respond_rxExpId (s : State) (r : Response) : (s.respond r).rxExpId = s.rxExpId := rfl
@[simp] theorem State.respond_rxId (s : State) (r : Response) : (s.respond r).rxId = s.rxId := rfl
@[simp] theorem State.respond_rxLenbytes (s : State) (r : Response) : (s.respond r).rxLenbytes = s.rxLenbytes := rfl
@[simp] theorem State.respond_rxLen (s : State) (r : Response) : (s.respond r).rxLen = s.rxLen := rfl
@[simp] theorem State.respond_rxData (s : State) (r : Response) : (s.respond r).rxData = s.rxData := rfl
@[simp] theorem State.respond_rxCrc (s : State) (r : Response) : (s.respond r).rxCrc = s.rxCrc := rfl
@[simp] theorem State.respond_rxEnd (s : State) (r : Response) : (s.respond r).rxEnd = s.rxEnd := rfl
@[simp] theorem State.respond_rxResult (s : State) (r : Response) : (s.respond r).rxResult = s.rxResult := rfl
@[simp] theorem State.respond_rxFrame (s : State) (r : Response) : (s.respond r).rxFrame = s.rxFrame := rfl
@[simp] theorem State.respond_linkOpen (s : State) (r : Response) : (s.respond r).linkOpen = s.linkOpen := rfl
@[simp] theorem State.respond_rxQueue (s : State) (r : Response) : (s.respond r).rxQueue = s.rxQueue := rfl
@[simp] theorem State.respond_txLine (s : State) (r : Response) : (s.respond r).txLine = s.txLine := rfl
@[simp] theorem State.respond_writeDraw (s : State) (r : Response) : (s.respond r).writeDraw = s.writeDraw := rfl
@[simp] theorem State.respond_schedule (s : State) (r : Response) : (s.respond r).schedule = s.schedule := rfl
@[simp] theorem State.respond_responses (s : State) (r : Response) : (s.respond r).responses = s.responses ++ [r] := rfl

/-! ### `State.setCrc`: the accumulator and its counter -/

@[simp] theorem State.setCrc_crcAcc (s : State) (v : Word) : (s.setCrc v).crcAcc = v := rfl
@[simp] theorem State.setCrc_crcBit (s : State) (v : Word) : (s.setCrc v).crcBit = 0 := rfl
@[simp] theorem State.setCrc_rxPhase (s : State) (v : Word) : (s.setCrc v).rxPhase = s.rxPhase := rfl
@[simp] theorem State.setCrc_rxVariant (s : State) (v : Word) : (s.setCrc v).rxVariant = s.rxVariant := rfl
@[simp] theorem State.setCrc_rxExpEn (s : State) (v : Word) : (s.setCrc v).rxExpEn = s.rxExpEn := rfl
@[simp] theorem State.setCrc_rxExpId (s : State) (v : Word) : (s.setCrc v).rxExpId = s.rxExpId := rfl
@[simp] theorem State.setCrc_rxId (s : State) (v : Word) : (s.setCrc v).rxId = s.rxId := rfl
@[simp] theorem State.setCrc_rxLenbytes (s : State) (v : Word) : (s.setCrc v).rxLenbytes = s.rxLenbytes := rfl
@[simp] theorem State.setCrc_rxLen (s : State) (v : Word) : (s.setCrc v).rxLen = s.rxLen := rfl
@[simp] theorem State.setCrc_rxData (s : State) (v : Word) : (s.setCrc v).rxData = s.rxData := rfl
@[simp] theorem State.setCrc_rxCrc (s : State) (v : Word) : (s.setCrc v).rxCrc = s.rxCrc := rfl
@[simp] theorem State.setCrc_rxEnd (s : State) (v : Word) : (s.setCrc v).rxEnd = s.rxEnd := rfl
@[simp] theorem State.setCrc_rxResult (s : State) (v : Word) : (s.setCrc v).rxResult = s.rxResult := rfl
@[simp] theorem State.setCrc_rxFrame (s : State) (v : Word) : (s.setCrc v).rxFrame = s.rxFrame := rfl
@[simp] theorem State.setCrc_linkOpen (s : State) (v : Word) : (s.setCrc v).linkOpen = s.linkOpen := rfl
@[simp] theorem State.setCrc_rxQueue (s : State) (v : Word) : (s.setCrc v).rxQueue = s.rxQueue := rfl
@[simp] theorem State.setCrc_txLine (s : State) (v : Word) : (s.setCrc v).txLine = s.txLine := rfl
@[simp] theorem State.setCrc_writeDraw (s : State) (v : Word) : (s.setCrc v).writeDraw = s.writeDraw := rfl
@[simp] theorem State.setCrc_schedule (s : State) (v : Word) : (s.setCrc v).schedule = s.schedule := rfl
@[simp] theorem State.setCrc_responses (s : State) (v : Word) : (s.setCrc v).responses = s.responses := rfl

/-! ### `finish`: the end of a decode (R175) -/

@[simp] theorem finish_crcAcc (s : State) (r : RxResult) : (finish r s).crcAcc = s.crcAcc := rfl
@[simp] theorem finish_crcBit (s : State) (r : RxResult) : (finish r s).crcBit = s.crcBit := rfl
@[simp] theorem finish_rxPhase (s : State) (r : RxResult) : (finish r s).rxPhase = .idle := rfl
@[simp] theorem finish_rxVariant (s : State) (r : RxResult) : (finish r s).rxVariant = s.rxVariant := rfl
@[simp] theorem finish_rxExpEn (s : State) (r : RxResult) : (finish r s).rxExpEn = s.rxExpEn := rfl
@[simp] theorem finish_rxExpId (s : State) (r : RxResult) : (finish r s).rxExpId = s.rxExpId := rfl
@[simp] theorem finish_rxId (s : State) (r : RxResult) : (finish r s).rxId = 0x00#8 := rfl
@[simp] theorem finish_rxLenbytes (s : State) (r : RxResult) : (finish r s).rxLenbytes = [] := rfl
@[simp] theorem finish_rxLen (s : State) (r : RxResult) : (finish r s).rxLen = 0#16 := rfl
@[simp] theorem finish_rxData (s : State) (r : RxResult) : (finish r s).rxData = [] := rfl
@[simp] theorem finish_rxCrc (s : State) (r : RxResult) : (finish r s).rxCrc = 0x0000#16 := rfl
@[simp] theorem finish_rxEnd (s : State) (r : RxResult) : (finish r s).rxEnd = 0x00#8 := rfl
@[simp] theorem finish_rxResult (s : State) (r : RxResult) : (finish r s).rxResult = r := rfl
@[simp] theorem finish_rxFrame (s : State) (r : RxResult) : (finish r s).rxFrame = (if r = .frame then s.rxFrame else Frame.cleared) := rfl
@[simp] theorem finish_linkOpen (s : State) (r : RxResult) : (finish r s).linkOpen = s.linkOpen := rfl
@[simp] theorem finish_rxQueue (s : State) (r : RxResult) : (finish r s).rxQueue = s.rxQueue := rfl
@[simp] theorem finish_txLine (s : State) (r : RxResult) : (finish r s).txLine = s.txLine := rfl
@[simp] theorem finish_writeDraw (s : State) (r : RxResult) : (finish r s).writeDraw = s.writeDraw := rfl
@[simp] theorem finish_schedule (s : State) (r : RxResult) : (finish r s).schedule = s.schedule := rfl
@[simp] theorem finish_responses (s : State) (r : RxResult) : (finish r s).responses = s.responses := rfl

/-! ### `linkOpenStep`: the link opens (R180) -/

@[simp] theorem linkOpenStep_crcAcc (s : State) : (linkOpenStep s).crcAcc = s.crcAcc := rfl
@[simp] theorem linkOpenStep_crcBit (s : State) : (linkOpenStep s).crcBit = s.crcBit := rfl
@[simp] theorem linkOpenStep_rxPhase (s : State) : (linkOpenStep s).rxPhase = s.rxPhase := rfl
@[simp] theorem linkOpenStep_rxVariant (s : State) : (linkOpenStep s).rxVariant = s.rxVariant := rfl
@[simp] theorem linkOpenStep_rxExpEn (s : State) : (linkOpenStep s).rxExpEn = s.rxExpEn := rfl
@[simp] theorem linkOpenStep_rxExpId (s : State) : (linkOpenStep s).rxExpId = s.rxExpId := rfl
@[simp] theorem linkOpenStep_rxId (s : State) : (linkOpenStep s).rxId = s.rxId := rfl
@[simp] theorem linkOpenStep_rxLenbytes (s : State) : (linkOpenStep s).rxLenbytes = s.rxLenbytes := rfl
@[simp] theorem linkOpenStep_rxLen (s : State) : (linkOpenStep s).rxLen = s.rxLen := rfl
@[simp] theorem linkOpenStep_rxData (s : State) : (linkOpenStep s).rxData = s.rxData := rfl
@[simp] theorem linkOpenStep_rxCrc (s : State) : (linkOpenStep s).rxCrc = s.rxCrc := rfl
@[simp] theorem linkOpenStep_rxEnd (s : State) : (linkOpenStep s).rxEnd = s.rxEnd := rfl
@[simp] theorem linkOpenStep_rxResult (s : State) : (linkOpenStep s).rxResult = s.rxResult := rfl
@[simp] theorem linkOpenStep_rxFrame (s : State) : (linkOpenStep s).rxFrame = s.rxFrame := rfl
@[simp] theorem linkOpenStep_linkOpen (s : State) : (linkOpenStep s).linkOpen = true := rfl
@[simp] theorem linkOpenStep_rxQueue (s : State) : (linkOpenStep s).rxQueue = s.rxQueue := rfl
@[simp] theorem linkOpenStep_txLine (s : State) : (linkOpenStep s).txLine = s.txLine := rfl
@[simp] theorem linkOpenStep_writeDraw (s : State) : (linkOpenStep s).writeDraw = s.writeDraw := rfl
@[simp] theorem linkOpenStep_schedule (s : State) : (linkOpenStep s).schedule = s.schedule := rfl
@[simp] theorem linkOpenStep_responses (s : State) : (linkOpenStep s).responses = s.responses := rfl

/-! ### `linkCloseStep`: the link closes (R180) -/

@[simp] theorem linkCloseStep_crcAcc (s : State) : (linkCloseStep s).crcAcc = s.crcAcc := rfl
@[simp] theorem linkCloseStep_crcBit (s : State) : (linkCloseStep s).crcBit = s.crcBit := rfl
@[simp] theorem linkCloseStep_rxPhase (s : State) : (linkCloseStep s).rxPhase = s.rxPhase := rfl
@[simp] theorem linkCloseStep_rxVariant (s : State) : (linkCloseStep s).rxVariant = s.rxVariant := rfl
@[simp] theorem linkCloseStep_rxExpEn (s : State) : (linkCloseStep s).rxExpEn = s.rxExpEn := rfl
@[simp] theorem linkCloseStep_rxExpId (s : State) : (linkCloseStep s).rxExpId = s.rxExpId := rfl
@[simp] theorem linkCloseStep_rxId (s : State) : (linkCloseStep s).rxId = s.rxId := rfl
@[simp] theorem linkCloseStep_rxLenbytes (s : State) : (linkCloseStep s).rxLenbytes = s.rxLenbytes := rfl
@[simp] theorem linkCloseStep_rxLen (s : State) : (linkCloseStep s).rxLen = s.rxLen := rfl
@[simp] theorem linkCloseStep_rxData (s : State) : (linkCloseStep s).rxData = s.rxData := rfl
@[simp] theorem linkCloseStep_rxCrc (s : State) : (linkCloseStep s).rxCrc = s.rxCrc := rfl
@[simp] theorem linkCloseStep_rxEnd (s : State) : (linkCloseStep s).rxEnd = s.rxEnd := rfl
@[simp] theorem linkCloseStep_rxResult (s : State) : (linkCloseStep s).rxResult = s.rxResult := rfl
@[simp] theorem linkCloseStep_rxFrame (s : State) : (linkCloseStep s).rxFrame = s.rxFrame := rfl
@[simp] theorem linkCloseStep_linkOpen (s : State) : (linkCloseStep s).linkOpen = false := rfl
@[simp] theorem linkCloseStep_rxQueue (s : State) : (linkCloseStep s).rxQueue = [] := rfl
@[simp] theorem linkCloseStep_txLine (s : State) : (linkCloseStep s).txLine = s.txLine := rfl
@[simp] theorem linkCloseStep_writeDraw (s : State) : (linkCloseStep s).writeDraw = s.writeDraw := rfl
@[simp] theorem linkCloseStep_schedule (s : State) : (linkCloseStep s).schedule = s.schedule := rfl
@[simp] theorem linkCloseStep_responses (s : State) : (linkCloseStep s).responses = s.responses := rfl

/-! ### `drawWriteStep`: the link draws a write outcome (R134) -/

@[simp] theorem drawWriteStep_crcAcc (s : State) (w : WriteOutcome) : (drawWriteStep w s).crcAcc = s.crcAcc := rfl
@[simp] theorem drawWriteStep_crcBit (s : State) (w : WriteOutcome) : (drawWriteStep w s).crcBit = s.crcBit := rfl
@[simp] theorem drawWriteStep_rxPhase (s : State) (w : WriteOutcome) : (drawWriteStep w s).rxPhase = s.rxPhase := rfl
@[simp] theorem drawWriteStep_rxVariant (s : State) (w : WriteOutcome) : (drawWriteStep w s).rxVariant = s.rxVariant := rfl
@[simp] theorem drawWriteStep_rxExpEn (s : State) (w : WriteOutcome) : (drawWriteStep w s).rxExpEn = s.rxExpEn := rfl
@[simp] theorem drawWriteStep_rxExpId (s : State) (w : WriteOutcome) : (drawWriteStep w s).rxExpId = s.rxExpId := rfl
@[simp] theorem drawWriteStep_rxId (s : State) (w : WriteOutcome) : (drawWriteStep w s).rxId = s.rxId := rfl
@[simp] theorem drawWriteStep_rxLenbytes (s : State) (w : WriteOutcome) : (drawWriteStep w s).rxLenbytes = s.rxLenbytes := rfl
@[simp] theorem drawWriteStep_rxLen (s : State) (w : WriteOutcome) : (drawWriteStep w s).rxLen = s.rxLen := rfl
@[simp] theorem drawWriteStep_rxData (s : State) (w : WriteOutcome) : (drawWriteStep w s).rxData = s.rxData := rfl
@[simp] theorem drawWriteStep_rxCrc (s : State) (w : WriteOutcome) : (drawWriteStep w s).rxCrc = s.rxCrc := rfl
@[simp] theorem drawWriteStep_rxEnd (s : State) (w : WriteOutcome) : (drawWriteStep w s).rxEnd = s.rxEnd := rfl
@[simp] theorem drawWriteStep_rxResult (s : State) (w : WriteOutcome) : (drawWriteStep w s).rxResult = s.rxResult := rfl
@[simp] theorem drawWriteStep_rxFrame (s : State) (w : WriteOutcome) : (drawWriteStep w s).rxFrame = s.rxFrame := rfl
@[simp] theorem drawWriteStep_linkOpen (s : State) (w : WriteOutcome) : (drawWriteStep w s).linkOpen = s.linkOpen := rfl
@[simp] theorem drawWriteStep_rxQueue (s : State) (w : WriteOutcome) : (drawWriteStep w s).rxQueue = s.rxQueue := rfl
@[simp] theorem drawWriteStep_txLine (s : State) (w : WriteOutcome) : (drawWriteStep w s).txLine = s.txLine := rfl
@[simp] theorem drawWriteStep_writeDraw (s : State) (w : WriteOutcome) : (drawWriteStep w s).writeDraw = w := rfl
@[simp] theorem drawWriteStep_schedule (s : State) (w : WriteOutcome) : (drawWriteStep w s).schedule = s.schedule := rfl
@[simp] theorem drawWriteStep_responses (s : State) (w : WriteOutcome) : (drawWriteStep w s).responses = s.responses := rfl

/-! ### `blockReset`: the RESET input (R230) -/

@[simp] theorem blockReset_crcAcc (s : State) : (blockReset s).crcAcc = 0x0000#16 := rfl
@[simp] theorem blockReset_crcBit (s : State) : (blockReset s).crcBit = 0 := rfl
@[simp] theorem blockReset_rxPhase (s : State) : (blockReset s).rxPhase = .idle := rfl
@[simp] theorem blockReset_rxVariant (s : State) : (blockReset s).rxVariant = .simple := rfl
@[simp] theorem blockReset_rxExpEn (s : State) : (blockReset s).rxExpEn = false := rfl
@[simp] theorem blockReset_rxExpId (s : State) : (blockReset s).rxExpId = 0x00#8 := rfl
@[simp] theorem blockReset_rxId (s : State) : (blockReset s).rxId = 0x00#8 := rfl
@[simp] theorem blockReset_rxLenbytes (s : State) : (blockReset s).rxLenbytes = [] := rfl
@[simp] theorem blockReset_rxLen (s : State) : (blockReset s).rxLen = 0#16 := rfl
@[simp] theorem blockReset_rxData (s : State) : (blockReset s).rxData = [] := rfl
@[simp] theorem blockReset_rxCrc (s : State) : (blockReset s).rxCrc = 0x0000#16 := rfl
@[simp] theorem blockReset_rxEnd (s : State) : (blockReset s).rxEnd = 0x00#8 := rfl
@[simp] theorem blockReset_rxResult (s : State) : (blockReset s).rxResult = .none := rfl
@[simp] theorem blockReset_rxFrame (s : State) : (blockReset s).rxFrame = Frame.cleared := rfl
@[simp] theorem blockReset_linkOpen (s : State) : (blockReset s).linkOpen = s.linkOpen := rfl
@[simp] theorem blockReset_rxQueue (s : State) : (blockReset s).rxQueue = s.rxQueue := rfl
@[simp] theorem blockReset_txLine (s : State) : (blockReset s).txLine = s.txLine := rfl
@[simp] theorem blockReset_writeDraw (s : State) : (blockReset s).writeDraw = s.writeDraw := rfl
@[simp] theorem blockReset_schedule (s : State) : (blockReset s).schedule = s.schedule := rfl
@[simp] theorem blockReset_responses (s : State) : (blockReset s).responses = s.responses := rfl

/-! ### `State.withFetchWord`: the next operation (log 3) -/

@[simp] theorem State.withFetchWord_crcAcc (s : State) (n w : Nat) : (s.withFetchWord n w).crcAcc = s.crcAcc := rfl
@[simp] theorem State.withFetchWord_crcBit (s : State) (n w : Nat) : (s.withFetchWord n w).crcBit = s.crcBit := rfl
@[simp] theorem State.withFetchWord_rxPhase (s : State) (n w : Nat) : (s.withFetchWord n w).rxPhase = s.rxPhase := rfl
@[simp] theorem State.withFetchWord_rxVariant (s : State) (n w : Nat) : (s.withFetchWord n w).rxVariant = s.rxVariant := rfl
@[simp] theorem State.withFetchWord_rxExpEn (s : State) (n w : Nat) : (s.withFetchWord n w).rxExpEn = s.rxExpEn := rfl
@[simp] theorem State.withFetchWord_rxExpId (s : State) (n w : Nat) : (s.withFetchWord n w).rxExpId = s.rxExpId := rfl
@[simp] theorem State.withFetchWord_rxId (s : State) (n w : Nat) : (s.withFetchWord n w).rxId = s.rxId := rfl
@[simp] theorem State.withFetchWord_rxLenbytes (s : State) (n w : Nat) : (s.withFetchWord n w).rxLenbytes = s.rxLenbytes := rfl
@[simp] theorem State.withFetchWord_rxLen (s : State) (n w : Nat) : (s.withFetchWord n w).rxLen = s.rxLen := rfl
@[simp] theorem State.withFetchWord_rxData (s : State) (n w : Nat) : (s.withFetchWord n w).rxData = s.rxData := rfl
@[simp] theorem State.withFetchWord_rxCrc (s : State) (n w : Nat) : (s.withFetchWord n w).rxCrc = s.rxCrc := rfl
@[simp] theorem State.withFetchWord_rxEnd (s : State) (n w : Nat) : (s.withFetchWord n w).rxEnd = s.rxEnd := rfl
@[simp] theorem State.withFetchWord_rxResult (s : State) (n w : Nat) : (s.withFetchWord n w).rxResult = s.rxResult := rfl
@[simp] theorem State.withFetchWord_rxFrame (s : State) (n w : Nat) : (s.withFetchWord n w).rxFrame = s.rxFrame := rfl
@[simp] theorem State.withFetchWord_linkOpen (s : State) (n w : Nat) : (s.withFetchWord n w).linkOpen = s.linkOpen := rfl
@[simp] theorem State.withFetchWord_rxQueue (s : State) (n w : Nat) : (s.withFetchWord n w).rxQueue = s.rxQueue := rfl
@[simp] theorem State.withFetchWord_txLine (s : State) (n w : Nat) : (s.withFetchWord n w).txLine = s.txLine := rfl
@[simp] theorem State.withFetchWord_writeDraw (s : State) (n w : Nat) : (s.withFetchWord n w).writeDraw = s.writeDraw := rfl
@[simp] theorem State.withFetchWord_schedule (s : State) (n w : Nat) : (s.withFetchWord n w).schedule = .host (tableRequest n w) :: s.schedule := rfl
@[simp] theorem State.withFetchWord_responses (s : State) (n w : Nat) : (s.withFetchWord n w).responses = s.responses := rfl

end Sys2Proof.Machine
end

