-- ==== Sys2Proof/Laws/Ops.lean ====
section
/-! SUPPORT. Sys2Proof/Laws/Ops.lean: for each shared operation, what it can do, said once.  Later proofs cite these
and do not unfold the operation. -/

namespace Sys2Proof.Machine

open Sys2Proof.Safety

/-! ### Fields and bytes -/

theorem lowByte_lengthWord (n : Nat) : lowByte (lengthWord n) = BitVec.ofNat 8 n := by
  apply BitVec.eq_of_toNat_eq
  simp [lowByte, lengthWord]

theorem highByte_lengthWord (n : Nat) : highByte (lengthWord n) = BitVec.ofNat 8 (n / 256) := by
  apply BitVec.eq_of_toNat_eq
  simp [highByte, lengthWord, Nat.shiftRight_eq_div_pow]
  omega

/-- `be16` loses nothing (R52). -/
theorem highByte_lowByte_toNat (v : Word) : (highByte v).toNat * 256 + (lowByte v).toNat = v.toNat := by
  have := v.isLt
  simp [highByte, lowByte, Nat.shiftRight_eq_div_pow]
  omega

theorem zext16_toNat (b : Byte) : (zext16 b).toNat = b.toNat := by
  have := b.isLt
  simp [zext16]
  omega

theorem assemble_toNat (hi lo : Byte) : (assemble hi lo).toNat = hi.toNat * 256 + lo.toNat := by
  have := hi.isLt
  have := lo.isLt
  simp [assemble]
  omega

theorem zext16_eq_zero_iff (b : Byte) : zext16 b = 0#16 ↔ b.toNat = 0 := by
  rw [← zext16_toNat]
  exact ⟨fun h => by rw [h]; rfl, fun h => BitVec.eq_of_toNat_eq h⟩

theorem assemble_eq_zero_iff (hi lo : Byte) : assemble hi lo = 0#16 ↔ hi.toNat * 256 + lo.toNat = 0 := by
  rw [← assemble_toNat]
  exact ⟨fun h => by rw [h]; rfl, fun h => BitVec.eq_of_toNat_eq h⟩

theorem lowByte_inHighByte : ∀ b : Byte, lowByte (inHighByte b) = 0x00#8 := by decide

theorem inHighByte_eq_ofNat : ∀ b : Byte, inHighByte b = BitVec.ofNat 16 (b.toNat * 256) := by decide

@[simp] theorem be16_length (v : Word) : (be16 v).length = 2 := rfl

/-! ### Frames -/

theorem frameSimple_of_le {c : Byte} {p : List Byte} (h : p.length ≤ 254) :
    frameSimple c p = some ([0x02#8] ++ ([BitVec.ofNat 8 (p.length + 1), c] ++ p) ++
      be16 (crc16 ([BitVec.ofNat 8 (p.length + 1), c] ++ p)) ++ [0x03#8]) := by
  unfold frameSimple
  rw [if_neg (by simp [maxSimplePayload]; omega)]
  simp only [lowByte_lengthWord]
  rfl

theorem frameSimple_of_gt {c : Byte} {p : List Byte} (h : 254 < p.length) : frameSimple c p = none := by
  simp [frameSimple, maxSimplePayload, h]

theorem extHeader_of_le {n : Nat} (h : n ≤ 255) : extHeader n = [0x02#8, BitVec.ofNat 8 n] := by
  unfold extHeader
  rw [if_pos (by simpa [maxShortLength] using h), lowByte_lengthWord]
  rfl

theorem extHeader_of_gt {n : Nat} (h : 255 < n) :
    extHeader n = [0x03#8, BitVec.ofNat 8 (n / 256), BitVec.ofNat 8 n] := by
  unfold extHeader
  rw [if_neg (by simpa [maxShortLength] using h), be16, lowByte_lengthWord, highByte_lengthWord]
  rfl

theorem frameExt_of_le {c : Byte} {p : List Byte} (h : p.length ≤ 65534) :
    frameExt c p = some (extHeader (p.length + 1) ++ (c :: p) ++ be16 (crc16 (c :: p)) ++ [0x03#8]) := by
  unfold frameExt
  rw [if_neg (by simp [maxExtLength]; omega)]
  rfl

theorem frameExt_of_gt {c : Byte} {p : List Byte} (h : 65534 < p.length) : frameExt c p = none := by
  simp [frameExt, maxExtLength, show 65535 < p.length + 1 by omega]

theorem frameTlm_of_le {c : Byte} {p : List Byte} (h : p.length ≤ 65535) :
    frameTlm c p = some (([c, BitVec.ofNat 8 (p.length / 256), BitVec.ofNat 8 p.length] ++ p) ++
      be16 (crc16 ([c, BitVec.ofNat 8 (p.length / 256), BitVec.ofNat 8 p.length] ++ p))) := by
  unfold frameTlm
  rw [if_neg (by simp [maxTlmPayload]; omega)]
  simp [be16, lowByte_lengthWord, highByte_lengthWord]

theorem frameTlm_of_gt {c : Byte} {p : List Byte} (h : 65535 < p.length) : frameTlm c p = none := by
  simp [frameTlm, maxTlmPayload, h]

/-- A frame function answers a frame only within its variant's bound. -/
theorem length_le_of_frameOf {v : Variant} {c : Byte} {p f : List Byte} (h : frameOf v c p = some f) :
    p.length ≤ maxPayload v := by
  rcases v with _ | _ | _ <;> simp only [frameOf, maxPayload] at h ⊢ <;> by_contra hgt
  · rw [frameSimple_of_gt (by omega)] at h; cases h
  · rw [frameExt_of_gt (by omega)] at h; cases h
  · rw [frameTlm_of_gt (by omega)] at h; cases h

/-! ### The write -/

theorem txEmit_closed {f : List Byte} {s : State} (h : s.linkOpen = false) :
    txEmit f s = s.respond (.plain .linkError) := by
  simp [txEmit, h]

theorem txEmit_ok {f : List Byte} {s : State} (h : s.linkOpen = true) (hw : s.writeDraw = .ok) :
    txEmit f s = { s with txLine := s.txLine ++ f }.respond (.plain .ok) := by
  simp [txEmit, h, hw]

theorem txEmit_fail {f : List Byte} {s : State} {k : Nat} (h : s.linkOpen = true) (hw : s.writeDraw = .fail k) :
    txEmit f s =
      { s with txLine := s.txLine ++ f.take k, writeDraw := .ok }.respond (.plain .linkError) := by
  simp [txEmit, h, hw]

/-- Everything a TX_ENCODE can do: it extends the line by a prefix of its frame, may use up a drawn failure, and gives one
response. -/
theorem txEncode_cases (v : Variant) (c : Byte) (p : List Byte) (s : State) :
    (∃ r, txEncode v c p s = s.respond r) ∨
    ∃ f n w r, frameOf v c p = some f ∧ s.linkOpen = true ∧
      txEncode v c p s = { s with txLine := s.txLine ++ f.take n, writeDraw := w }.respond r := by
  unfold txEncode
  split
  · exact .inl ⟨_, rfl⟩
  next f hf =>
    by_cases hl : s.linkOpen = true
    · right
      rcases hw : s.writeDraw with _ | k
      · exact ⟨f, f.length, .ok, _, hf, hl, by rw [txEmit_ok hl hw, List.take_length, ← hw]⟩
      · exact ⟨f, k, .ok, _, hf, hl, txEmit_fail hl hw⟩
    · exact .inl ⟨_, txEmit_closed (by simpa using hl)⟩

/-! ### Arming and finishing -/

theorem arm_idle {v : Variant} {en : Bool} {id : Byte} {s : State} (h : s.rxPhase = .idle) :
    arm v en id s = { s with
      rxVariant := v, rxExpEn := en, rxExpId := if en then id else 0x00#8, rxResult := .pending,
      rxFrame := Frame.cleared, rxPhase := .start }.respond (.plain .ok) := by
  simp [arm, h]

theorem arm_busy {v : Variant} {en : Bool} {id : Byte} {s : State} (h : s.rxPhase ≠ .idle) :
    arm v en id s = s.respond (.plain .busy) := by
  simp [arm, h]

theorem finish_eq_finished {r : RxResult} (h : r ≠ .frame) (s : State) : finish r s = finished r Frame.cleared s := by
  simp [finish, finished, h]

theorem finish_frame_eq_finished (s : State) : finish .frame s = finished .frame s.rxFrame s := by
  simp [finish, finished]

/-- The three outcomes of the last two checks (R174). -/
theorem verdict_eq_finished (cov : List Byte) (c : Byte) (p : List Byte) (s : State) :
    verdict cov c p s =
      if crc16 cov ≠ s.rxCrc then finished .badCrc Frame.cleared s
      else if s.rxExpEn = true ∧ c ≠ s.rxExpId then finished .unexpectedId Frame.cleared s
      else finished .frame { commandId := c, payload := p, crc := s.rxCrc } s := by
  unfold verdict
  rw [finish_eq_finished (by simp), finish_eq_finished (by simp)]
  rfl

/-- What a finished decode has recorded, whichever check decided. -/
abbrev FinishOf (s t : State) : Prop :=
  ∃ r f, t = finished r f s ∧ r ≠ .none ∧ r ≠ .pending ∧ (r ≠ .frame → f = Frame.cleared)

theorem verdict_finishOf (cov : List Byte) (c : Byte) (p : List Byte) (s : State) : FinishOf s (verdict cov c p s) := by
  rw [verdict_eq_finished]
  split
  · exact ⟨_, _, rfl, by simp⟩
  · split <;> exact ⟨_, _, rfl, by simp⟩

theorem finish_finishOf {r : RxResult} (h : r ≠ .frame) (h1 : r ≠ .none) (h2 : r ≠ .pending) (s : State) :
    FinishOf s (finish r s) := ⟨_, _, finish_eq_finished h s, h1, h2, fun _ => rfl⟩

/-- Everything `judge` of a delimited frame can do: it finishes. -/
theorem judgeBody_next {s t : State} (h : judgeBody s = .next t) : FinishOf s t := by
  unfold judgeBody at h
  split at h
  · cases h; exact finish_finishOf (by simp) (by simp) (by simp) s
  · split at h
    · cases h; exact finish_finishOf (by simp) (by simp) (by simp) s
    · split at h
      · cases h
      · split at h
        · cases h
        · cases h; exact verdict_finishOf _ _ _ s

/-- Everything `judge` can do (R174): it finishes. -/
theorem judge_next {s t : State} (h : judge s = .next t) : FinishOf s t := by
  unfold judge at h
  split at h
  · exact judgeBody_next h
  · exact judgeBody_next h
  · cases h; exact verdict_finishOf _ _ _ s

/-- The judgement of a delimited frame whose buffer is full (R174, R204). -/
theorem judgeBody_of_full {s : State} (hl : s.rxData.length = s.rxLen.toNat) :
    judgeBody s = .next (
      if s.rxEnd ≠ 0x03#8 then finished .badEnd Frame.cleared s
      else if s.rxLen = 0#16 then finished .emptyBody Frame.cleared s
      else verdict (coveredBytes s.rxVariant s.rxId s.rxLenbytes s.rxData) (s.rxData.headD 0) s.rxData.tail s) := by
  unfold judgeBody
  rw [finish_eq_finished (by simp), finish_eq_finished (by simp), show endDelimiter = 0x03#8 from rfl]
  split
  · rfl
  · split
    · rfl
    next h0 =>
      rw [List.take_of_length_le (by omega)]
      rcases hd : s.rxData with _ | ⟨c, p⟩
      · exact absurd (BitVec.eq_of_toNat_eq (by rw [← hl, hd]; rfl)) h0
      · simp only [hd] at hl
        simp only [if_neg (show ¬ (c :: p).length < s.rxLen.toNat by omega), List.headD_cons, List.tail_cons]

/-! ### The decoder's and the timer's steps -/

theorem decoderStep_idle {s : State} (h : s.rxPhase = .idle) : decoderStep s = .next s := by
  simp [decoderStep, h]

theorem decoderStep_waiting {s : State} (hl : s.linkOpen = true) (hq : s.rxQueue = []) : decoderStep s = .next s := by
  simp [decoderStep, hl, hq]

theorem decoderStep_closed {s : State} (hp : s.rxPhase ≠ .idle) (hl : s.linkOpen = false) :
    decoderStep s = .next (finish .linkError s) := by
  simp [decoderStep, hp, hl]

theorem decoderStep_take {s : State} {b : Byte} {q : List Byte} (hp : s.rxPhase ≠ .idle) (hl : s.linkOpen = true)
    (hq : s.rxQueue = b :: q) : decoderStep s = onByte b { s with rxQueue := q } := by
  simp [decoderStep, hp, hl, hq]

/-- No byte step touches the link, the queue or anything outside the decoder (R190). -/
theorem onByte_elsewhere {b : Byte} {s t : State} (h : onByte b s = .next t) :
    SameElsewhere s t ∧ t.linkOpen = s.linkOpen ∧ t.rxQueue = s.rxQueue := by
  have hj : ∀ {u w : State}, FinishOf u w → SameElsewhere u w ∧ w.linkOpen = u.linkOpen ∧ w.rxQueue = u.rxQueue := by
    rintro u w ⟨r, f, rfl, -⟩
    simp [SameElsewhere, finished]
  unfold onByte at h
  split at h
  · cases h; simp [SameElsewhere]
  · cases h; unfold onStart; repeat' split
    all_goals simp [SameElsewhere]
  · cases h; simp [SameElsewhere, onLen1]
  · cases h; simp [SameElsewhere, onLenh]
  · cases h; simp [SameElsewhere, onLenl]
  · cases h; simp [SameElsewhere, onData]
  · cases h; simp [SameElsewhere, onCrch]
  · unfold onCrcl at h
    simp only at h
    split at h
    · exact hj (u := { s with rxCrc := s.rxCrc ||| zext16 b }) (judge_next h)
    · cases h; simp [SameElsewhere]
    · cases h; simp [SameElsewhere]
  · exact hj (u := { s with rxEnd := b }) (judge_next h)

/-- A decoder step takes at most the head of the queue, and touches neither the link nor anything else outside the decoder. -/
theorem decoderStep_elsewhere {s t : State} (h : decoderStep s = .next t) :
    SameElsewhere s t ∧ t.linkOpen = s.linkOpen ∧ (t.rxQueue = s.rxQueue ∨ ∃ b, s.rxQueue = b :: t.rxQueue) := by
  by_cases hp : s.rxPhase = .idle
  · rw [decoderStep_idle hp] at h; cases h; simp [SameElsewhere]
  by_cases hl : s.linkOpen = true
  · rcases hq : s.rxQueue with _ | ⟨b, q⟩
    · rw [decoderStep_waiting hl hq] at h; cases h; simp [SameElsewhere, hq]
    · rw [decoderStep_take hp hl hq] at h
      obtain ⟨h1, h2, h3⟩ := onByte_elsewhere h
      exact ⟨h1, h2, .inr ⟨b, by rw [h3]⟩⟩
  · rw [decoderStep_closed hp (by simpa using hl)] at h; cases h; simp [SameElsewhere]

/-- Everything a timeout can do (R167): nothing, or finish a waiting decode. -/
theorem timeoutStep_cases (s : State) :
    timeoutStep s = s ∨
    s.waiting = true ∧ timeoutStep s = finish (if s.rxPhase = .start then .noData else .truncated) s := by
  unfold timeoutStep
  by_cases hw : s.waiting = true
  · right
    refine ⟨hw, ?_⟩
    rw [if_pos hw]
    split <;> rfl
  · left
    rw [if_neg hw]

theorem waiting_iff {s : State} : s.waiting = true ↔ s.rxPhase ≠ .idle ∧ s.linkOpen = true ∧ s.rxQueue = [] := by
  simp [State.waiting, State.armed, and_assoc]

theorem timeoutStep_elsewhere (s : State) :
    SameElsewhere s (timeoutStep s) ∧ (timeoutStep s).linkOpen = s.linkOpen ∧ (timeoutStep s).rxQueue = s.rxQueue := by
  rcases timeoutStep_cases s with h | ⟨-, h⟩ <;> rw [h] <;> simp [SameElsewhere]

theorem linkByteStep_open {s : State} (b : Byte) (h : s.linkOpen = true) :
    linkByteStep b s = { s with rxQueue := s.rxQueue ++ [b] } := by
  simp [linkByteStep, h]

theorem linkByteStep_closed {s : State} (b : Byte) (h : s.linkOpen = false) : linkByteStep b s = s := by
  simp [linkByteStep, h]

end Sys2Proof.Machine
end

