-- ==== Sys2Proof/Laws/PerInstr.lean ====
section
/-! SUPPORT. Sys2Proof/Laws/PerInstr.lean: per operation, its request is well formed by the bit fields of R81. -/

namespace Sys2Proof.Laws.EncodeWf

/-- The request of an operation passes the check of Sys2Proof/WellFormed.lean (R81, R82). -/
def Statement (i : Instr) : Prop := requestWf (encode i) = true

theorem crcClear : Statement .crcClear := by unfold Statement; decide

theorem crcByte (b : Byte) : Statement (.crcByte b) :=
  requestWf_of_operandShape (op := 0x11#8) (shape := .byte) (by decide) rfl

theorem crcRead : Statement .crcRead := by unfold Statement; decide

theorem txEncodeSimple (cmd : Byte) (payload : List Byte) : Statement (.txEncodeSimple cmd payload) :=
  requestWf_of_operandShape (op := 0x20#8) (shape := .bytePayload) (by decide) rfl

theorem txEncodeExt (cmd : Byte) (payload : List Byte) : Statement (.txEncodeExt cmd payload) :=
  requestWf_of_operandShape (op := 0x21#8) (shape := .bytePayload) (by decide) rfl

theorem txEncodeTlm (cmd : Byte) (payload : List Byte) : Statement (.txEncodeTlm cmd payload) :=
  requestWf_of_operandShape (op := 0x22#8) (shape := .bytePayload) (by decide) rfl

theorem rxDecodeSimple : Statement .rxDecodeSimple := by unfold Statement; decide

theorem rxDecodeExt : Statement .rxDecodeExt := by unfold Statement; decide

theorem rxDecodeTlm : Statement .rxDecodeTlm := by unfold Statement; decide

theorem rxDecodeSimpleExp (expect : Byte) : Statement (.rxDecodeSimpleExp expect) :=
  requestWf_of_operandShape (op := 0x34#8) (shape := .byte) (by decide) rfl

theorem rxDecodeExtExp (expect : Byte) : Statement (.rxDecodeExtExp expect) :=
  requestWf_of_operandShape (op := 0x35#8) (shape := .byte) (by decide) rfl

theorem rxDecodeTlmExp (expect : Byte) : Statement (.rxDecodeTlmExp expect) :=
  requestWf_of_operandShape (op := 0x36#8) (shape := .byte) (by decide) rfl

theorem rxStatus : Statement .rxStatus := by unfold Statement; decide

end Sys2Proof.Laws.EncodeWf
end

