-- ==== Sys2Proof/Laws/Run.lean ====
section
/-! SUPPORT. Sys2Proof/Laws/Run.lean: what a step can do, by the agent that takes it, and how runs compose. -/

namespace Sys2Proof.Machine

open Sys2Proof.Safety

/-- Every operation answers a next state; the rules for it say which. -/
theorem exec_eq_next (i : Instr) (s : State) : ∃ t, exec i s = .next t := by
  cases i <;> exact ⟨_, rfl⟩

/-- Everything a host's step can do: run the decoded operation, or answer ILLEGAL_OP to a reserved code. -/
theorem hostStep_cases {request : List Byte} {s t : State} (h : hostStep request s = .next t) :
    (∃ i, decode request = .ok i ∧ exec i s = .next t) ∨
    (∃ op args, request = op :: args ∧ OpCode.ofByte op = none ∧ t = s.respond (.plain .illegalOp)) := by
  simp only [hostStep] at h
  split at h
  next i hi => exact .inl ⟨i, hi, h⟩
  next op ho =>
    obtain ⟨args, rfl, hn⟩ := decode_reservedOp_inv ho
    exact .inr ⟨op, args, rfl, hn, by cases h; rfl⟩
  all_goals cases h

/-- Everything a step can do, by the head of the schedule. -/
theorem step_cases {s t : State} (h : step s = .next t) :
    (s.schedule = [] ∧ decoderStep s = .next t) ∨
    ∃ ev rest, s.schedule = ev :: rest ∧
      ((∃ request, ev = .host request ∧ hostStep request { s with schedule := rest } = .next t) ∨
       (ev = .decoder ∧ decoderStep { s with schedule := rest } = .next t) ∨
       (ev = .timeout ∧ t = timeoutStep { s with schedule := rest }) ∨
       (ev = .linkOpen ∧ t = linkOpenStep { s with schedule := rest }) ∨
       (ev = .linkClose ∧ t = linkCloseStep { s with schedule := rest }) ∨
       (∃ b, ev = .linkByte b ∧ t = linkByteStep b { s with schedule := rest }) ∨
       (∃ w, ev = .drawWrite w ∧ t = drawWriteStep w { s with schedule := rest }) ∨
       (ev = .reset ∧ t = blockReset { s with schedule := rest })) := by
  simp only [step] at h
  split at h
  next hs => exact .inl ⟨hs, h⟩
  next ev rest hs =>
    refine .inr ⟨ev, rest, hs, ?_⟩
    cases ev <;> simp only [eventStep] at h
    case host r => simp [h]
    case decoder => simp [h]
    all_goals (cases h; simp)

/-! ### Runs -/

@[simp] theorem andThen_next (s : State) (f : State → Outcome) : andThen (.next s) f = f s := rfl

theorem andThen_eq_next {o : Outcome} {f : State → Outcome} {t : State} (h : andThen o f = .next t) :
    ∃ s, o = .next s ∧ f s = .next t := by
  rcases o with s | r | r
  · exact ⟨s, rfl, h⟩
  · cases h
  · cases h

theorem core_run_next (M : Host.Core) (n : Nat) (s t : M.State) (h : M.step s = .next t) :
    M.run (n + 1) s = M.run n t := by
  rw [Host.Core.run, h]

theorem core_run_fault (M : Host.Core) (n : Nat) (s : M.State) (r : M.Fault) (h : M.step s = .fault r) :
    M.run (n + 1) s = .fault r := by
  rw [Host.Core.run, h]

theorem core_run_refused (M : Host.Core) (n : Nat) (s : M.State) (r : M.Refusal) (h : M.step s = .refused r) :
    M.run (n + 1) s = .refused r := by
  rw [Host.Core.run, h]

@[simp] theorem run_zero (s : State) : run 0 s = .next s := rfl

theorem run_succ (n : Nat) (s : State) : run (n + 1) s = andThen (step s) (run n) := by
  rcases h : step s with t | r | r
  · exact core_run_next Sys2Proof.core n s t h
  · exact core_run_fault Sys2Proof.core n s r h
  · exact core_run_refused Sys2Proof.core n s r h

theorem run_add (a b : Nat) (s : State) : run (a + b) s = andThen (run a s) (run b) := by
  induction a generalizing s with
  | zero => rw [Nat.zero_add, run_zero, andThen_next]
  | succ a ih =>
    rw [Nat.add_right_comm, run_succ, run_succ]
    rcases step s with t | r | r
    · exact ih t
    · rfl
    · rfl

/-- With nothing scheduled, a run is the decoder's steps alone. -/
theorem step_unscheduled {s : State} (h : s.schedule = []) : step s = decoderStep s := by
  simp [step, h, unscheduledStep]

/-! ### Runs without end -/

theorem armed_iff {s : State} : s.armed = true ↔ s.rxPhase ≠ .idle := by simp [State.armed]

theorem canTake_iff {s : State} : s.canTake = true ↔ s.rxPhase ≠ .idle ∧ s.linkOpen = true ∧ s.rxQueue ≠ [] := by
  simp [State.canTake, State.armed, and_assoc]

theorem cutOff_iff {s : State} : s.cutOff = true ↔ s.rxPhase ≠ .idle ∧ s.linkOpen = false := by
  simp [State.cutOff, State.armed]

/-- An armed decoder has one of the three kinds of step of R161. -/
theorem armed_cases {s : State} (h : s.rxPhase ≠ .idle) : s.canTake = true ∨ s.cutOff = true ∨ s.waiting = true := by
  rw [canTake_iff, cutOff_iff, waiting_iff]
  cases s.linkOpen <;> by_cases hq : s.rxQueue = [] <;> simp [h, hq]

/-- A step of a run is the step of the agent its event names. -/
theorem eventStep_of_isRun {events : Nat → Event} {states : Nat → State} (h : IsRun events states) (n : Nat) :
    eventStep (events n) { states n with schedule := [] } = .next (states (n + 1)) := h n

theorem countSteps_zero (kind : Event → State → Bool) (events : Nat → Event) (states : Nat → State) (n : Nat) :
    countSteps kind events states n 0 = 0 := rfl

theorem countSteps_succ (kind : Event → State → Bool) (events : Nat → Event) (states : Nat → State) (n len : Nat) :
    countSteps kind events states n (len + 1) =
      countSteps kind events states (n + 1) len + if kind (events n) (states n) then 1 else 0 := by
  simp [countSteps, List.range'_succ, List.countP_cons]

end Sys2Proof.Machine
end

