-- ==== Sys2Proof/Laws/Safety.lean ====
section
/-! SUPPORT. Sys2Proof/Laws/Safety.lean: the invariant's parts. -/

namespace Sys2Proof.Safety

open Sys2Proof.Machine

/-- `phaseFields` phase by phase. -/
theorem phaseFields_iff (s : State) :
    phaseFields s = true ↔
      (s.rxPhase = .idle → s.rxId = 0x00#8 ∧ s.rxLenbytes = [] ∧ LengthUnread s) ∧
      (s.rxPhase = .start → s.rxId = 0x00#8 ∧ s.rxLenbytes = [] ∧ LengthUnread s) ∧
      (s.rxPhase = .len1 → s.rxVariant ≠ .telemetry ∧ s.rxLenbytes = [] ∧ LengthUnread s) ∧
      (s.rxPhase = .lenh → s.rxVariant ≠ .simple ∧ s.rxLenbytes = [] ∧ LengthUnread s) ∧
      (s.rxPhase = .lenl → s.rxVariant ≠ .simple ∧ s.rxLenbytes.length = 1 ∧ LengthUnread s) ∧
      (s.rxPhase = .data → LengthRead s ∧ s.rxData.length < s.rxLen.toNat ∧ s.rxCrc = 0x0000#16) ∧
      (s.rxPhase = .crch → LengthRead s ∧ s.rxData.length = s.rxLen.toNat ∧ s.rxCrc = 0x0000#16) ∧
      (s.rxPhase = .crcl → LengthRead s ∧ s.rxData.length = s.rxLen.toNat ∧ lowByte s.rxCrc = 0x00#8) ∧
      (s.rxPhase = .endByte → LengthRead s ∧ s.rxData.length = s.rxLen.toNat ∧ s.rxVariant ≠ .telemetry) := by
  unfold phaseFields
  rcases h : s.rxPhase <;>
    simp only [decide_eq_true_eq, reduceCtorEq, false_implies, true_implies, true_and, and_true]

/-- `phaseFields` reads seven fields of the decoder and nothing else. -/
theorem phaseFields_congr {s t : State} (hp : t.rxPhase = s.rxPhase) (hv : t.rxVariant = s.rxVariant)
    (hi : t.rxId = s.rxId) (hb : t.rxLenbytes = s.rxLenbytes) (hl : t.rxLen = s.rxLen) (hd : t.rxData = s.rxData)
    (hc : t.rxCrc = s.rxCrc) : phaseFields t = phaseFields s := by
  simp only [phaseFields, LengthUnread, LengthRead, hp, hv, hi, hb, hl, hd, hc]

@[simp] theorem lengthOf_one (b : Byte) : lengthOf [b] = zext16 b := rfl

@[simp] theorem lengthOf_two (hi lo : Byte) : lengthOf [hi, lo] = assemble hi lo := rfl

theorem afterLength_ne_idle (len : Word) : afterLength len ≠ .idle := by
  unfold afterLength
  split <;> simp

/-- A finished decoder meets the invariant when the parts that `finish` leaves alone did, and what it holds is a valid
frame or the cleared one. -/
theorem consistent_finished {s : State} {r : RxResult} {f : Frame} (hbit : s.crcBit = 0)
    (hexp : s.rxExpEn = false → s.rxExpId = 0x00#8) (hlink : s.linkOpen = false → s.rxQueue = []) (hr : r ≠ .pending)
    (hf : r ≠ .frame → f = Frame.cleared)
    (hacc : r = .frame → f.payload.length ≤ maxPayload s.rxVariant ∧
      f.crc = crc16 (coveredOf s.rxVariant f.commandId f.payload) ∧
      (s.rxExpEn = true → f.commandId = s.rxExpId)) :
    Consistent (finished r f s) := by
  refine ⟨hbit, rfl, hexp, ?_, hf, hacc, fun _ => rfl, hlink, ?_⟩
  · simp [finished, hr]
  · simp [phaseFields, finished]

end Sys2Proof.Safety
end

