-- ==== Sys2Proof/Machine/Text.lean ====
section
/-! DEFINITION. Sys2Proof/Machine/Text.lean: the text syntax of R85, in which spec/95_test_vectors.md writes its
programs.  It is for reading only; no step uses it. -/

namespace Sys2Proof.Machine

/-- A hexadecimal digit. -/
def hexDigit (n : Nat) : Char :=
  if n < 10 then Char.ofNat (48 + n) else Char.ofNat (55 + n)

/-- A byte as two hexadecimal digits. -/
def hexByte (b : Byte) : List Char := [hexDigit (b.toNat / 16), hexDigit (b.toNat % 16)]

/-- Hexadecimal bytes separated by spaces, without a prefix (R12, R85). -/
def hexBytes : List Byte → List Char
  | [] => []
  | [b] => hexByte b
  | b :: rest => hexByte b ++ [' '] ++ hexBytes rest

/-- A byte operand with its prefix (R12). -/
def hexOperand (b : Byte) : String := String.ofList (['0', 'x'] ++ hexByte b)

/-- A payload, or the bytes of an `env.rx`. -/
def bracketed (bytes : List Byte) : String := "[" ++ String.ofList (hexBytes bytes) ++ "]"

/-- The text of a host operation (R85). -/
def operationText : Instr → String
  | .crcClear => "crc.clear"
  | .crcByte b => "crc.byte " ++ hexOperand b
  | .crcRead => "crc.read"
  | .txEncodeSimple cmd payload => "tx.simple " ++ hexOperand cmd ++ ", " ++ bracketed payload
  | .txEncodeExt cmd payload => "tx.ext " ++ hexOperand cmd ++ ", " ++ bracketed payload
  | .txEncodeTlm cmd payload => "tx.tlm " ++ hexOperand cmd ++ ", " ++ bracketed payload
  | .rxDecodeSimple => "rx.simple"
  | .rxDecodeExt => "rx.ext"
  | .rxDecodeTlm => "rx.tlm"
  | .rxDecodeSimpleExp expect => "rx.simple expect=" ++ hexOperand expect
  | .rxDecodeExtExp expect => "rx.ext expect=" ++ hexOperand expect
  | .rxDecodeTlmExp expect => "rx.tlm expect=" ++ hexOperand expect
  | .rxStatus => "rx.status"

/-- The text of an atomic step (R85); a request that is no operation has none.  `dec.run` is many `decoder` steps, and
a drawn success is what stands when no `env.txfail` is written. -/
def eventText : Event → Option String
  | .host request =>
    match decode request with
    | .ok i => some (operationText i)
    | .error _ => none
  | .decoder => some "dec.run"
  | .timeout => some "env.timeout"
  | .linkOpen => some "env.open"
  | .linkClose => some "env.close"
  | .linkByte b => some ("env.rx " ++ bracketed [b])
  | .drawWrite .ok => none
  | .drawWrite (.fail k) => some ("env.txfail " ++ toString k)
  | .reset => some "reset"

end Sys2Proof.Machine
end

