-- ==== Sys2Proof/Tests/Slice0.lean ====
section
/-! SUPPORT. Sys2Proof/Tests/Slice0.lean: tests and witnesses.

Expected values come from spec/95_test_vectors.md (cited by vector) or from the tables and examples of the rule named;
none was taken from the model.  A `witness_` theorem shows that an obligation's hypotheses can be met together. -/

namespace Sys2Proof.Tests

-- The kernel evaluations below run one after the other: each on a thread of its own they ask for too much memory.
set_option Elab.async false

open Sys2Proof Sys2Proof.Machine Sys2Proof.Safety

/-! ### Small states -/

/-- The start state with the link open. -/
def opened : State := { State.reset with linkOpen := true }

/-- An open link, the given bytes queued, and the decoder armed. -/
def armedOn (v : Variant) (queue : List Byte) : State :=
  { opened with rxPhase := .start, rxResult := .pending, rxVariant := v, rxQueue := queue }

/-- `s` with a schedule. -/
def sched (s : State) (events : List Event) : State := { s with schedule := events }

/-- The SIMPLE frame V-TX-4 with its body taken and its CRC read, waiting for END. -/
def atEnd : State :=
  { armedOn .simple [0x03#8, 0x55#8] with
    rxPhase := .endByte, rxLenbytes := [0x05#8], rxLen := 5#16,
    rxData := [0x05#8, 0x3F#8, 0x00#8, 0x00#8, 0x00#8], rxCrc := 0x9851#16 }

/-- The EXTENDED frame V-TX-5 at the same place. -/
def atEndExt : State := { atEnd with rxVariant := .extended, rxCrc := 0xDB50#16 }

/-- The TELEMETRY frame V-TX-7 with all but its last byte taken. -/
def atCrcl : State :=
  { armedOn .telemetry [0x4C#8] with
    rxPhase := .crcl, rxId := 0x04#8, rxLenbytes := [0x00#8, 0x03#8], rxLen := 3#16,
    rxData := [0x01#8, 0x02#8, 0x03#8], rxCrc := 0xFC00#16 }

/-- An accepted SIMPLE frame, as P2 leaves it. -/
def accepted : State :=
  { opened with
    rxResult := .frame, rxExpEn := true, rxExpId := 0x05#8,
    rxFrame := { commandId := 0x05#8, payload := [0x3F#8, 0x00#8, 0x00#8, 0x00#8], crc := 0x9851#16 } }

/-- The frame of V-TX-1. -/
def simpleFrame : List Byte := [0x02#8, 0x01#8, 0x04#8, 0x73#8, 0xB5#8, 0x03#8]

/-- The frame of V-TX-2. -/
def extFrame : List Byte := [0x02#8, 0x01#8, 0x04#8, 0x40#8, 0x84#8, 0x03#8]

/-- The frame of V-TX-3. -/
def tlmFrame : List Byte := [0x04#8, 0x00#8, 0x00#8, 0xDC#8, 0xC0#8]

/-- A property of the next state, where there is one. -/
def view {α : Type} (o : Outcome) (f : State → α) : Option α :=
  match o with
  | .next t => some (f t)
  | .fault _ => none
  | .refused _ => none

/-! ### Decoding: words written out from R81's table (unit in op[7:4], EXP in op[2], variant in op[1:0]) -/

theorem test_decode_crcClear : decode [0b0001_0000#8] = .ok .crcClear := by decide
theorem test_decode_crcByte : decode [0b0001_0001#8, 0xA5#8] = .ok (.crcByte 0xA5#8) := by decide
theorem test_decode_crcRead : decode [0b0001_0010#8] = .ok .crcRead := by decide
theorem test_decode_txEncodeSimple :
    decode [0b0010_0000#8, 0x05#8, 0x3F#8, 0x00#8] = .ok (.txEncodeSimple 0x05#8 [0x3F#8, 0x00#8]) := by decide
theorem test_decode_txEncodeExt : decode [0b0010_0001#8, 0x04#8] = .ok (.txEncodeExt 0x04#8 []) := by decide
theorem test_decode_txEncodeTlm :
    decode [0b0010_0010#8, 0x04#8, 0x01#8] = .ok (.txEncodeTlm 0x04#8 [0x01#8]) := by decide
theorem test_decode_rxDecodeSimple : decode [0b0011_0000#8] = .ok .rxDecodeSimple := by decide
theorem test_decode_rxDecodeExt : decode [0b0011_0001#8] = .ok .rxDecodeExt := by decide
theorem test_decode_rxDecodeTlm : decode [0b0011_0010#8] = .ok .rxDecodeTlm := by decide
theorem test_decode_rxDecodeSimpleExp :
    decode [0b0011_0100#8, 0x05#8] = .ok (.rxDecodeSimpleExp 0x05#8) := by decide
theorem test_decode_rxDecodeExtExp : decode [0b0011_0101#8, 0xFF#8] = .ok (.rxDecodeExtExp 0xFF#8) := by decide
theorem test_decode_rxDecodeTlmExp : decode [0b0011_0110#8, 0x04#8] = .ok (.rxDecodeTlmExp 0x04#8) := by decide
theorem test_decode_rxStatus : decode [0b0100_0000#8] = .ok .rxStatus := by decide

/-- The reserved codes of V-OP-3, and variant 3 in the TX unit. -/
theorem test_decode_reserved :
    ∀ op ∈ [0x00#8, 0x13#8, 0x23#8, 0x33#8, 0x37#8, 0x41#8, 0xFF#8],
      decode [op] = .error (.reservedOp op) ∧ decode [op, 0x00#8] = .error (.reservedOp op) := by decide

theorem test_decode_malformed :
    decode [] = .error .noOpcode ∧
    decode [0x10#8, 0x00#8] = .error (.operandCount 0x10#8) ∧
    decode [0x11#8] = .error (.operandCount 0x11#8) ∧
    decode [0x11#8, 0x00#8, 0x00#8] = .error (.operandCount 0x11#8) ∧
    decode [0x21#8] = .error (.operandCount 0x21#8) ∧
    decode [0x34#8] = .error (.operandCount 0x34#8) := by decide

/-- The words of spec/opcode_table.json, one of each family, and a reserved one. -/
theorem test_decodeTableWord :
    decodeTableWord 8 0x11 = some (.crcByte 0x00#8) ∧
    decodeTableWord 8 0x22 = some (.txEncodeTlm 0x00#8 []) ∧
    decodeTableWord 8 0x35 = some (.rxDecodeExtExp 0x00#8) ∧
    decodeTableWord 8 0x40 = some .rxStatus ∧
    decodeTableWord 8 0x33 = none := by decide

/-! ### The request check: an ill-formed request for each way of failing -/

theorem test_wf_empty_request : requestWf [] = false := by decide
theorem test_wf_reserved_unit : requestWf [0x50#8] = false := by decide
theorem test_wf_reserved_crc_select : requestWf [0x13#8] = false := by decide
theorem test_wf_reserved_tx_bits : requestWf [0x24#8, 0x00#8] = false ∧ requestWf [0x28#8, 0x00#8] = false := by decide
theorem test_wf_reserved_tx_variant : requestWf [0x23#8, 0x00#8] = false := by decide
theorem test_wf_reserved_rx_top : requestWf [0x38#8] = false := by decide
theorem test_wf_reserved_rx_variant : requestWf [0x33#8] = false ∧ requestWf [0x37#8, 0x00#8] = false := by decide
theorem test_wf_reserved_status_select : requestWf [0x41#8] = false := by decide
theorem test_wf_extra_operand : requestWf [0x40#8, 0x00#8] = false := by decide
theorem test_wf_missing_operand : requestWf [0x11#8] = false ∧ requestWf [0x36#8] = false := by decide
theorem test_wf_two_operands : requestWf [0x11#8, 0x00#8, 0x00#8] = false := by decide
theorem test_wf_missing_cmd : requestWf [0x20#8] = false := by decide

/-! ### The CRC engine -/

/-- V-SH-1 to V-SH-7. -/
theorem test_shiftStep_vectors :
    [0x0000#16, 0x0001#16, 0x7FFF#16, 0x8000#16, 0xFFFF#16, 0x1234#16, 0x8001#16].map shiftStep =
      [0x0000#16, 0x0002#16, 0xFFFE#16, 0x1021#16, 0xEFDF#16, 0x2468#16, 0x1023#16] := by decide

/-- V-BY-2, V-BY-3, V-BY-5 to V-BY-8. -/
theorem test_byteStep_vectors :
    [(0x0000#16, 0x01#8), (0x0000#16, 0xFF#8), (0xFFFF#16, 0xFF#8), (0x31C3#16, 0x31#8), (0x1234#16, 0x56#8),
      (0xFFFF#16, 0x00#8)].map (fun p => byteStep p.1 p.2) =
      [0x1021#16, 0x1EF0#16, 0xFF00#16, 0xC300#16, 0x3C40#16, 0xE1F0#16] := by decide +kernel

/-- V-CRC-1, V-CRC-4, V-CRC-7 to V-CRC-12 (V-CRC-8 is R101's check value, V-CRC-12 the residue law). -/
theorem test_crc16_vectors :
    [[], [0x80#8], [0x41#8], [0x31#8, 0x32#8, 0x33#8, 0x34#8, 0x35#8, 0x36#8, 0x37#8, 0x38#8, 0x39#8],
      [0x01#8, 0x04#8], [0x04#8], [0xFF#8, 0xFF#8],
      [0x31#8, 0x32#8, 0x33#8, 0x34#8, 0x35#8, 0x36#8, 0x37#8, 0x38#8, 0x39#8, 0x31#8, 0xC3#8]].map crc16 =
      [0x0000#16, 0x9188#16, 0x58E5#16, 0x31C3#16, 0x73B5#16, 0x4084#16, 0x1D0F#16, 0x0000#16] := by decide +kernel

/-- R107's example. -/
theorem test_crcClear :
    view (exec .crcClear { State.reset with crcAcc := 0x31C3#16 }) (fun t => (t.crcAcc, t.responses)) =
      some (0x0000#16, [.plain .ok]) := by decide +kernel

/-- R108's example and V-BY-4. -/
theorem test_crcByte :
    view (exec (.crcByte 0x01#8) State.reset) State.crcAcc = some 0x1021#16 ∧
    view (exec (.crcByte 0x00#8) { State.reset with crcAcc := 0x1021#16 }) (fun t => (t.crcAcc, t.crcBit)) =
      some (0x3331#16, 0) := by decide +kernel

/-- R109's example. -/
theorem test_crcRead :
    view (exec .crcRead { State.reset with crcAcc := 0x31C3#16 }) State.responses = some [.value 0x31C3#16] := by
  decide +kernel

/-! ### The frame encoder -/

/-- V-TX-4 and V-TX-8 (delimiter values as data). -/
theorem test_txEncodeSimple :
    view (exec (.txEncodeSimple 0x05#8 [0x3F#8, 0x00#8, 0x00#8, 0x00#8]) opened) State.txLine =
      some [0x02#8, 0x05#8, 0x05#8, 0x3F#8, 0x00#8, 0x00#8, 0x00#8, 0x98#8, 0x51#8, 0x03#8] ∧
    view (exec (.txEncodeSimple 0x02#8 [0x03#8]) opened) State.txLine =
      some [0x02#8, 0x02#8, 0x02#8, 0x03#8, 0x38#8, 0x61#8, 0x03#8] := by decide +kernel

/-- V-TX-17 (TOO_LONG wins over the closed link) and V-TX-18 (a write that fails after 3 bytes). -/
theorem test_txEncodeSimple_errors :
    view (exec (.txEncodeSimple 0x00#8 (List.replicate 255 0x00#8)) State.reset) (fun t => (t.txLine, t.responses)) =
      some ([], [.plain .tooLong]) ∧
    view (exec (.txEncodeSimple 0x04#8 []) { opened with writeDraw := .fail 3 })
      (fun t => (t.txLine, t.responses, t.writeDraw)) =
      some ([0x02#8, 0x01#8, 0x04#8], [.plain .linkError], .ok) := by decide +kernel

/-- V-TX-6, and V-TX-16 (closed link). -/
theorem test_txEncodeExt :
    view (exec (.txEncodeExt 0x05#8 [0x00#8, 0x00#8, 0xC3#8, 0x50#8]) opened) State.txLine =
      some [0x02#8, 0x05#8, 0x05#8, 0x00#8, 0x00#8, 0xC3#8, 0x50#8, 0x3A#8, 0xA5#8, 0x03#8] ∧
    view (exec (.txEncodeExt 0x04#8 []) State.reset) (fun t => (t.txLine, t.responses)) =
      some ([], [.plain .linkError]) := by decide +kernel

/-- V-TX-13 and V-TX-14: the head of the longest short-header frame and of the shortest long-header frame. -/
theorem test_extHeader_threshold :
    extHeader 255 = [0x02#8, 0xFF#8] ∧ extHeader 256 = [0x03#8, 0x01#8, 0x00#8] ∧
    extHeader 65535 = [0x03#8, 0xFF#8, 0xFF#8] := by decide

/-- V-TX-7, and V-TX-3 with a write that fails after the whole frame. -/
theorem test_txEncodeTlm :
    view (exec (.txEncodeTlm 0x04#8 [0x01#8, 0x02#8, 0x03#8]) opened) State.txLine =
      some [0x04#8, 0x00#8, 0x03#8, 0x01#8, 0x02#8, 0x03#8, 0xFC#8, 0x4C#8] ∧
    view (exec (.txEncodeTlm 0x04#8 []) { opened with writeDraw := .fail 5 }) (fun t => (t.txLine, t.responses)) =
      some ([0x04#8, 0x00#8, 0x00#8, 0xDC#8, 0xC0#8], [.plain .linkError]) := by decide +kernel

/-! ### The frame decoder's host operations -/

/-- R181: `arm(0, 0, 0x00)`. -/
theorem test_rxDecodeSimple :
    view (exec .rxDecodeSimple accepted) (fun t => (t.rxVariant, t.rxExpEn, t.rxExpId)) =
      some (.simple, false, 0x00#8) ∧
    view (exec .rxDecodeSimple accepted) (fun t => (t.rxPhase, t.rxResult, t.rxFrame)) =
      some (.start, .pending, { commandId := 0x00#8, payload := [], crc := 0x0000#16 }) := by decide +kernel

/-- R182: `arm(1, 0, 0x00)`. -/
theorem test_rxDecodeExt :
    view (exec .rxDecodeExt accepted) (fun t => (t.rxVariant, t.rxExpEn, t.rxExpId)) =
      some (.extended, false, 0x00#8) := by decide +kernel

/-- R183: `arm(2, 0, 0x00)`. -/
theorem test_rxDecodeTlm :
    view (exec .rxDecodeTlm accepted) (fun t => (t.rxVariant, t.rxExpEn, t.rxExpId)) =
      some (.telemetry, false, 0x00#8) := by decide +kernel

/-- R184: `arm(0, 1, expect)`. -/
theorem test_rxDecodeSimpleExp :
    view (exec (.rxDecodeSimpleExp 0x04#8) accepted) (fun t => (t.rxVariant, t.rxExpEn, t.rxExpId)) =
      some (.simple, true, 0x04#8) := by decide +kernel

/-- R185: `arm(1, 1, expect)`, and BUSY (V-RX-23). -/
theorem test_rxDecodeExtExp :
    view (exec (.rxDecodeExtExp 0x04#8) accepted) (fun t => (t.rxVariant, t.rxExpEn, t.rxExpId)) =
      some (.extended, true, 0x04#8) ∧
    view (exec (.rxDecodeExtExp 0x04#8) atEnd) id = some { atEnd with responses := [.plain .busy] } := by decide +kernel

/-- R186: `arm(2, 1, expect)`. -/
theorem test_rxDecodeTlmExp :
    view (exec (.rxDecodeTlmExp 0x04#8) accepted) (fun t => (t.rxVariant, t.rxExpEn, t.rxExpId)) =
      some (.telemetry, true, 0x04#8) := by decide +kernel

/-- V-OP-1, and line 6 of P2. -/
theorem test_rxStatus :
    view (exec .rxStatus State.reset) State.responses =
      some [.report 0 0 { commandId := 0x00#8, payload := [], crc := 0x0000#16 }] ∧
    view (exec .rxStatus accepted) State.responses =
      some [.report 0 2
        { commandId := 0x05#8, payload := [0x3F#8, 0x00#8, 0x00#8, 0x00#8], crc := 0x9851#16 }] := by decide +kernel

/-! ### The decoder's, the timer's and the link's steps -/

/-- V-RX-6: 0x7E is no START; the one byte is taken. -/
theorem test_badStart :
    view (decoderStep (armedOn .simple [0x7E#8, 0x02#8])) (fun t => (t.rxPhase, t.rxResult, t.rxQueue)) =
      some (.idle, .badStart, [0x02#8]) := by decide +kernel

/-- R168: 0x03 is the long header for EXTENDED, an illegal byte for SIMPLE and a packet id for TELEMETRY. -/
theorem test_start_0x03 :
    view (decoderStep (armedOn .extended [0x03#8])) State.rxPhase = some .lenh ∧
    view (decoderStep (armedOn .simple [0x03#8])) State.rxResult = some .badStart ∧
    view (decoderStep (armedOn .telemetry [0x03#8])) (fun t => (t.rxPhase, t.rxId)) = some (.lenh, 0x03#8) := by
  decide +kernel

/-- V-RX-4, V-RX-8 and V-RX-9 at the last byte: accepted, wrong END, flipped payload bit. -/
theorem test_end_simple :
    view (decoderStep atEnd) (fun t => (t.rxResult, t.rxFrame, t.rxQueue)) =
      some (.frame, { commandId := 0x05#8, payload := [0x3F#8, 0x00#8, 0x00#8, 0x00#8], crc := 0x9851#16 },
        [0x55#8]) ∧
    view (decoderStep { atEnd with rxQueue := [0x04#8] }) State.rxResult = some .badEnd ∧
    view (decoderStep { atEnd with rxData := [0x05#8, 0x3E#8, 0x00#8, 0x00#8, 0x00#8] }) State.rxResult =
      some .badCrc := by decide +kernel

/-- V-RX-1 and V-RX-3 at the last byte: EXTENDED covers the body only. -/
theorem test_end_extended :
    view (decoderStep atEndExt) State.rxResult = some .frame ∧
    view (decoderStep { atEndExt with rxCrc := 0x9851#16 }) State.rxResult = some .badCrc := by decide +kernel

/-- V-RX-10, V-PR-1, V-PR-2 and V-PR-3 at the last byte: the order of the checks. -/
theorem test_end_priority :
    view (decoderStep { atEnd with rxExpEn := true, rxExpId := 0x04#8 }) State.rxResult = some .unexpectedId ∧
    view (decoderStep { atEnd with
      rxExpEn := true, rxExpId := 0x04#8, rxData := [0x05#8, 0x3E#8, 0x00#8, 0x00#8, 0x00#8], rxQueue := [0x04#8] })
      State.rxResult = some .badEnd ∧
    view (decoderStep { atEnd with rxLenbytes := [0x00#8], rxLen := 0#16, rxData := [], rxCrc := 0x1234#16 })
      State.rxResult = some .emptyBody ∧
    view (decoderStep { atEnd with
      rxExpEn := true, rxExpId := 0x04#8, rxData := [0x05#8, 0x3E#8, 0x00#8, 0x00#8, 0x00#8] })
      State.rxResult = some .badCrc := by decide +kernel

/-- V-RX-15 and V-RX-16 at the last byte. -/
theorem test_crcl_telemetry :
    view (decoderStep atCrcl) (fun t => (t.rxResult, t.rxFrame)) =
      some (.frame, { commandId := 0x04#8, payload := [0x01#8, 0x02#8, 0x03#8], crc := 0xFC4C#16 }) ∧
    view (decoderStep { atCrcl with rxQueue := [0xCC#8] }) State.rxResult = some .badCrc := by decide +kernel

/-- V-RX-5 and V-RX-7: a timeout before and after the leading byte. -/
theorem test_timeout :
    (timeoutStep (armedOn .simple [])).rxResult = .noData ∧
    (timeoutStep { armedOn .simple [] with rxPhase := .data, rxLenbytes := [0x05#8], rxLen := 5#16 }).rxResult =
      .truncated := by decide +kernel

/-- V-RX-13: the close empties the queue, and the decoder's next step is the link-closed finish. -/
theorem test_close :
    (linkCloseStep (armedOn .simple [0x05#8])).rxQueue = [] ∧
    view (decoderStep (linkCloseStep (armedOn .simple [0x05#8]))) State.rxResult = some .linkError := by decide +kernel

/-- P6, line 8: RESET in phase DATA. -/
theorem test_reset_during_decode :
    blockReset { atEnd with crcAcc := 0x1EF0#16 } = { State.reset with linkOpen := true, rxQueue := [0x03#8, 0x55#8] } := by
  decide +kernel

/-- A reserved code on the schedule (V-OP-3), and an opcode-table word as the next operation. -/
theorem test_step :
    view (step (sched State.reset [.host [0x13#8]])) id = some { State.reset with responses := [.plain .illegalOp] } ∧
    view (step (State.reset.withFetchWord 8 0x30)) id = view (exec .rxDecodeSimple State.reset) id := by decide +kernel

/-- R85's syntax. -/
theorem test_text :
    operationText (.txEncodeSimple 0x05#8 [0x3F#8, 0x00#8]) = "tx.simple 0x05, [3F 00]" ∧
    operationText (.rxDecodeExtExp 0x0A#8) = "rx.ext expect=0x0A" := by decide +kernel

/-! ### Witnesses: the hypotheses of each obligation, met together, clause by clause -/

theorem witness_ReservedCodesAnswerIllegalOp :
    (∀ op ∈ [0x00#8, 0x0F#8, 0x13#8, 0x1F#8, 0x23#8, 0x2F#8, 0x33#8, 0x37#8, 0x3F#8, 0x41#8, 0xFF#8], reservedCode op) ∧
    (∀ op ∈ [0x10#8, 0x12#8, 0x20#8, 0x22#8, 0x30#8, 0x32#8, 0x34#8, 0x36#8, 0x40#8], ¬ reservedCode op) ∧
    (sched State.reset [.host [0x33#8, 0x00#8], .decoder]).schedule = .host (0x33#8 :: [0x00#8]) :: [.decoder] := by
  unfold reservedCode
  decide

/-- A malformed request and one that is not. -/
theorem witness_MalformedRequestStops :
    (sched State.reset [.host [0x11#8]]).schedule = .host [0x11#8] :: [] ∧
    requestWf [0x11#8] = false ∧ ¬ reservedCode 0x11#8 ∧ requestWf [] = false ∧ requestWf [0x11#8, 0x00#8] = true := by
  unfold reservedCode
  decide

theorem witness_StepRunsDecodedOperation :
    (sched opened [.host [0x35#8, 0xFF#8], .timeout]).schedule = .host [0x35#8, 0xFF#8] :: [.timeout] ∧
    decode [0x35#8, 0xFF#8] = .ok (.rxDecodeExtExp 0xFF#8) := by decide

theorem witness_StepRunsTheScheduledAgent :
    opened.schedule = [] ∧ (sched opened [.decoder]).schedule = .decoder :: [] ∧
    (sched opened [.timeout, .reset]).schedule = .timeout :: [.reset] := by decide

theorem witness_RepeatedReadsAgree :
    (Instr.crcRead = .crcRead ∨ Instr.crcRead = .rxStatus) ∧ (Instr.rxStatus = .crcRead ∨ Instr.rxStatus = .rxStatus) := by
  decide

theorem witness_CrcIsLinear : [0x31#8, 0x32#8].length = [0xFF#8, 0x00#8].length ∧ ([] : List Byte).length = ([] : List Byte).length := by
  decide

theorem witness_CrcDetectsEverySingleBitError :
    (0 < [0x00#8].length ∧ 0 < 8) ∧ (1 < [0x00#8, 0xFF#8].length ∧ 7 < 8) := by decide

/-- An empty and a one-byte computation, and CRC_BYTEs with other steps between them. -/
theorem witness_CrcComputeReturnsCrc16 :
    (sched State.reset (hostEvents (crcCompute []))).schedule = hostEvents (crcCompute []) ∧
    (sched State.reset (hostEvents (crcCompute [0x31#8]))).schedule = hostEvents (crcCompute [0x31#8]) ∧
    Event.reset ∉ [Event.host [0x11#8, 0x31#8], .linkOpen, .host [0x11#8, 0x32#8]] ∧
    Event.host (encode .crcClear) ∉ [Event.host [0x11#8, 0x31#8], .linkOpen, .host [0x11#8, 0x32#8]] ∧
    fedBytes [Event.host [0x11#8, 0x31#8], .linkOpen, .host [0x11#8, 0x32#8]] = [0x31#8, 0x32#8] ∧
    view (run 4 (sched State.reset
      (.host (encode .crcClear) :: [.host [0x11#8, 0x31#8], .linkOpen, .host [0x11#8, 0x32#8]]))) State.crcAcc =
      some 0x20B5#16 := by decide +kernel

/-- All three ways in which the accumulator changes. -/
theorem witness_OnlyCrcOperationsWriteAccumulator :
    ∀ ev ∈ [Event.reset, .host (encode .crcClear), .host (encode (.crcByte 0x01#8))],
      view (step (sched { opened with crcAcc := 0x31C3#16 } [ev])) (fun t => decide (t.crcAcc ≠ 0x31C3#16)) = some true := by
  decide +kernel

theorem witness_SimpleFrameLayout :
    ([] : List Byte).length ≤ 254 ∧ (List.replicate 254 0x00#8).length ≤ 254 := by
  simp only [List.length_replicate, List.length_nil]
  omega

theorem witness_ExtFrameHeaderAndLayout :
    ((List.replicate 254 0x00#8).length + 1 ≤ 255 ∧ 256 ≤ (List.replicate 255 0x00#8).length + 1) ∧
    ((List.replicate 65534 0x00#8).length + 1 ≤ 65535 ∧ 65536 ≤ (List.replicate 65535 0x00#8).length + 1) := by
  simp only [List.length_replicate]
  omega

theorem witness_TlmFrameLayout :
    ([] : List Byte).length ≤ 65535 ∧ (List.replicate 65535 0x00#8).length ≤ 65535 := by
  simp only [List.length_replicate, List.length_nil]
  omega

/-- Over-long, closed link, a write that succeeds, and writes that fail after none and after all of the frame. -/
theorem witness_TxEncodeSimpleOutcomes :
    254 < (List.replicate 255 0x00#8).length ∧
    (([] : List Byte).length ≤ 254 ∧ State.reset.linkOpen = false) ∧
    (([] : List Byte).length ≤ 254 ∧ opened.linkOpen = true ∧ opened.writeDraw = .ok) ∧
    simpleFrame = [0x02#8] ++ [0x01#8, 0x04#8] ++ be16 (crc16 [0x01#8, 0x04#8]) ++ [0x03#8] ∧
    (0 ≤ simpleFrame.length ∧ ({ opened with writeDraw := .fail 0 } : State).writeDraw = .fail 0) ∧
    (6 ≤ simpleFrame.length ∧ ({ opened with writeDraw := .fail 6 } : State).writeDraw = .fail 6) := by decide +kernel

theorem witness_TxEncodeExtOutcomes :
    65534 < (List.replicate 65535 0x00#8).length ∧
    ((List.replicate 255 0x00#8).length ≤ 65534 ∧ 254 < (List.replicate 255 0x00#8).length) ∧
    (([] : List Byte).length ≤ 254 ∧ opened.linkOpen = true ∧ opened.writeDraw = .ok) ∧
    State.reset.linkOpen = false ∧ ({ opened with writeDraw := .fail 6 } : State).writeDraw = .fail 6 := by
  have h (n : Nat) : (List.replicate n 0x00#8).length = n := List.length_replicate
  exact ⟨by rw [h]; omega, by rw [h]; omega, ⟨by decide, rfl, rfl⟩, rfl, rfl⟩

theorem witness_TxEncodeExtOutcomes_frame :
    extFrame = [0x02#8, BitVec.ofNat 8 1] ++ [0x04#8] ++ [] ++ be16 (crc16 [0x04#8]) ++ [0x03#8] ∧ 6 ≤ extFrame.length := by
  decide +kernel

theorem witness_TxEncodeTlmOutcomes :
    65535 < (List.replicate 65536 0x00#8).length ∧ (List.replicate 65535 0x00#8).length ≤ 65535 ∧
    State.reset.linkOpen = false ∧ opened.linkOpen = true ∧ opened.writeDraw = .ok ∧
    ({ opened with writeDraw := .fail 5 } : State).writeDraw = .fail 5 := by
  have h (n : Nat) : (List.replicate n 0x00#8).length = n := List.length_replicate
  exact ⟨by rw [h]; omega, by rw [h], rfl, rfl, rfl, rfl⟩

theorem witness_TxEncodeTlmOutcomes_frame :
    tlmFrame = ([0x04#8, BitVec.ofNat 8 (0 / 256), BitVec.ofNat 8 0] ++ []) ++
      be16 (crc16 ([0x04#8, BitVec.ofNat 8 (0 / 256), BitVec.ofNat 8 0] ++ [])) ∧ 5 ≤ tlmFrame.length := by decide +kernel

theorem witness_frames_encode :
    frameOf .simple 0x04#8 [] = some simpleFrame ∧ frameOf .extended 0x04#8 [] = some extFrame ∧
    frameOf .telemetry 0x04#8 [] = some tlmFrame ∧ (List.replicate 254 0x00#8).length ≤ 254 := by decide +kernel

/-- A whole frame and a prefix of one on the line. -/
theorem witness_OnlyTxEncodeExtendsTheLine :
    view (step (sched opened [.host [0x20#8, 0x04#8]])) State.txLine = some simpleFrame ∧
    view (step (sched { opened with writeDraw := .fail 3 } [.host [0x20#8, 0x04#8]])) State.txLine =
      some [0x02#8, 0x01#8, 0x04#8] := by decide +kernel

/-- Idle and armed, with the first and the last of the six operations. -/
theorem witness_RxDecodeArmsAnIdleDecoder :
    (opened.rxPhase = .idle ∧ State.reset.rxPhase = .idle) ∧ atEnd.rxPhase ≠ .idle ∧
    (Instr.rxDecodeSimple, 0x30#8, Variant.simple, false, 0x00#8) ∈
      [(Instr.rxDecodeSimple, 0x30#8, Variant.simple, false, 0x00#8), (.rxDecodeTlmExp 0xFF#8, 0x36#8, .telemetry, true, 0xFF#8)] ∧
    (Instr.rxDecodeTlmExp 0xFF#8, 0x36#8, Variant.telemetry, true, 0xFF#8) ∈
      [(Instr.rxDecodeSimple, 0x30#8, Variant.simple, false, 0x00#8), (.rxDecodeTlmExp 0xFF#8, 0x36#8, .telemetry, true, 0xFF#8)] := by
  decide

theorem witness_RxDecodeWhileArmedIsBusy :
    (armedOn .simple []).rxPhase ≠ .idle ∧
    Instr.rxDecodeExt ∈ [Instr.rxDecodeSimple, .rxDecodeExt, .rxDecodeTlm, .rxDecodeSimpleExp 0x05#8,
      .rxDecodeExtExp 0x05#8, .rxDecodeTlmExp 0x05#8] := by decide

theorem witness_HostOperationsLeaveADecodeAlone : atEnd.rxPhase ≠ .idle := by decide

theorem witness_OneResponsePerHostOperation :
    view (step (sched opened [.host [0x12#8]])) State.responses = some [.value 0x0000#16] ∧
    view (step opened) State.responses = some [] ∧ (∀ request rest, opened.schedule ≠ .host request :: rest) := by
  refine ⟨by decide +kernel, by decide +kernel, ?_⟩
  simp [opened, State.reset]

theorem witness_ClosedLinkFinishesTheDecode :
    (linkCloseStep atEnd).rxPhase ≠ .idle ∧ (linkCloseStep atEnd).linkOpen = false := by decide

/-- In START and in a later phase. -/
theorem witness_TimeoutFinishesAWaitingDecode :
    ((armedOn .simple []).rxPhase = .start ∧ (armedOn .simple []).linkOpen = true ∧ (armedOn .simple []).rxQueue = []) ∧
    (({ atEnd with rxQueue := [] } : State).rxPhase = .endByte ∧ ({ atEnd with rxQueue := [] } : State).rxQueue = []) := by
  decide

theorem witness_StepsNotEnabledChangeNothing :
    opened.rxPhase = .idle ∧ (opened.linkOpen = true ∧ opened.rxQueue = []) ∧ State.reset.linkOpen = false ∧
    atEnd.rxQueue ≠ [] := by decide

/-- Every row of R168's table. -/
theorem witness_LeadingByteSelectsThePhase :
    ∀ p ∈ [(Variant.simple, 0x02#8), (.simple, 0x03#8), (.extended, 0x02#8), (.extended, 0x03#8), (.extended, 0x04#8),
      (.telemetry, 0xFF#8)],
      (armedOn p.1 [p.2]).rxPhase = .start ∧ (armedOn p.1 [p.2]).linkOpen = true ∧
      (armedOn p.1 [p.2]).rxVariant = p.1 ∧ (armedOn p.1 [p.2]).rxQueue = p.2 :: [] := by decide

theorem witness_LengthBytesAreTaken :
    ∀ p ∈ [(RxPhase.len1, ([] : List Byte), 0x00#8), (.len1, [], 0xFF#8), (.lenh, [], 0x01#8), (.lenl, [0x00#8], 0x00#8),
      (.lenl, [0xFF#8], 0xFF#8), (.lenl, [], 0x05#8)],
      ({ armedOn .extended [p.2.2] with rxPhase := p.1, rxLenbytes := p.2.1 } : State).linkOpen = true ∧
      ({ armedOn .extended [p.2.2] with rxPhase := p.1, rxLenbytes := p.2.1 } : State).rxQueue = p.2.2 :: [] := by decide

/-- The last data byte and one that is not the last. -/
theorem witness_DataByteIsAppended :
    ∀ data ∈ [[0x05#8], [0x05#8, 0x3F#8, 0x00#8, 0x00#8]],
      ({ atEnd with rxPhase := .data, rxData := data, rxCrc := 0x0000#16 } : State).rxQueue = 0x03#8 :: [0x55#8] ∧
      Consistent { atEnd with rxPhase := .data, rxData := data, rxCrc := 0x0000#16 } := by decide +kernel

theorem witness_CrcBytesAreTaken :
    ({ atEnd with rxPhase := .crch } : State).rxQueue = 0x03#8 :: [0x55#8] ∧
    (({ atEnd with rxPhase := .crcl, rxCrc := 0x9800#16 } : State).rxVariant ≠ .telemetry ∧ lowByte 0x9800#16 = 0x00#8) := by
  decide

/-- Delimited frames: accepted (both variants), wrong END, length 0, wrong CRC, wrong id. -/
theorem witness_JudgementChecksInOrder_delimited :
    (∀ s ∈ [atEnd, atEndExt, { atEnd with rxQueue := [0x04#8] },
        { atEnd with rxLenbytes := [0x00#8], rxLen := 0#16, rxData := [] }, { atEnd with rxCrc := 0x9850#16 },
        { atEnd with rxExpEn := true, rxExpId := 0x04#8 }],
      Consistent s ∧ s.rxPhase = .endByte ∧ s.linkOpen = true ∧ s.rxQueue ≠ []) ∧
    crc16 (atEnd.rxLenbytes ++ atEnd.rxData) = atEnd.rxCrc ∧ crc16 atEndExt.rxData = atEndExt.rxCrc := by decide +kernel

/-- TELEMETRY: accepted, wrong CRC, wrong id. -/
theorem witness_JudgementChecksInOrder_telemetry :
    (∀ s ∈ [atCrcl, { atCrcl with rxQueue := [0xCC#8] }, { atCrcl with rxExpEn := true, rxExpId := 0x05#8 }],
      Consistent s ∧ s.rxPhase = .crcl ∧ s.rxVariant = .telemetry ∧ s.linkOpen = true ∧ s.rxQueue ≠ []) ∧
    crc16 ([atCrcl.rxId] ++ atCrcl.rxLenbytes ++ atCrcl.rxData) = BitVec.ofNat 16 (atCrcl.rxCrc.toNat + (0x4C#8).toNat) := by
  decide +kernel

/-- A judgement, a timeout and a closed link end a decode. -/
theorem witness_FinishClearsThePartialFields :
    atEnd.rxPhase ≠ .idle ∧
    (∀ s ∈ [atEnd, sched (armedOn .simple []) [.timeout], linkCloseStep atEnd],
      view (step s) State.rxPhase = some .idle) ∧
    (∀ rest, (sched (armedOn .simple []) [.timeout]).schedule ≠ .reset :: rest) := by
  refine ⟨by decide, by decide +kernel, ?_⟩
  simp [sched]

theorem witness_DecoderTakesOnlyTheHead :
    (Consistent atEnd ∧ atEnd.rxPhase ≠ .idle ∧ atEnd.linkOpen = true) ∧
    (Consistent State.reset ∧ State.reset.rxPhase = .idle) ∧
    (Consistent (linkCloseStep atEnd) ∧ (linkCloseStep atEnd).linkOpen = false) := by
  refine ⟨?_, ?_, ?_⟩ <;> decide +kernel

/-- Two states that differ in everything the decoder does not read; and two idle decoders with different histories. -/
theorem witness_DecodeIsIndependentOfTheRest :
    SameDecoder atEnd
      { atEnd with crcAcc := 0x1234#16, txLine := [0x00#8], writeDraw := .fail 1, schedule := [.reset], responses := [.plain .ok] } ∧
    (view (decoderStep atEnd) State.rxPhase).isSome = true ∧
    (Consistent accepted ∧ Consistent opened ∧ accepted.rxPhase = .idle ∧ opened.rxPhase = .idle ∧
      accepted.linkOpen = opened.linkOpen ∧ accepted.rxQueue = opened.rxQueue) := by
  refine ⟨?_, ?_, ?_, ?_, ?_⟩ <;> decide +kernel

/-- One byte, a short header, a long header and a TELEMETRY frame, each just long enough. -/
theorem witness_DecodeTakesExactlyItsExtent :
    ∀ p ∈ [(Variant.simple, [0x7E#8], 1), (.simple, simpleFrame, 6), (.extended, [0x04#8], 1), (.extended, extFrame, 6),
      (.extended, [0x03#8, 0x00#8, 0x01#8, 0x04#8, 0x40#8, 0x84#8, 0x03#8], 7), (.telemetry, tlmFrame, 5)],
      Consistent (armedOn p.1 p.2.1) ∧ (armedOn p.1 p.2.1).schedule = [] ∧ (armedOn p.1 p.2.1).rxPhase = .start ∧
      decodeExtent p.1 p.2.1 = some p.2.2 ∧ p.2.2 ≤ p.2.1.length := by decide +kernel

/-- Nothing queued, no length field yet, and one byte short. -/
theorem witness_ShortStreamEndsInTimeout :
    (∀ q ∈ [([] : List Byte), [0x02#8], [0x02#8, 0x01#8, 0x04#8, 0x73#8, 0xB5#8]],
      Consistent (armedOn .simple q) ∧ (armedOn .simple q).schedule = [] ∧ (armedOn .simple q).linkOpen = true ∧
      (armedOn .simple q).rxPhase = .start) ∧
    decodeExtent .simple [] = none ∧ decodeExtent .simple [0x02#8] = none ∧
    decodeExtent .simple [0x02#8, 0x01#8, 0x04#8, 0x73#8, 0xB5#8] = some 6 := by decide +kernel

/-- Each variant, with no expected id and with the frame's own. -/
theorem witness_EveryEncodedFrameDecodes :
    (∀ p ∈ [(Variant.simple, simpleFrame), (.extended, extFrame), (.telemetry, tlmFrame)],
      frameOf p.1 0x04#8 [] = some p.2 ∧ Consistent (armedOn p.1 (p.2 ++ [0x55#8])) ∧
      (armedOn p.1 (p.2 ++ [0x55#8])).rxQueue = p.2 ++ [0x55#8] ∧ (armedOn p.1 (p.2 ++ [0x55#8])).rxExpEn = false) ∧
    Consistent { armedOn .simple simpleFrame with rxExpEn := true, rxExpId := 0x04#8 } := by decide +kernel

/-- The first and the last protected byte of each layout. -/
theorem witness_EveryFlippedBitIsRejected :
    (protectedByte .simple [] 2 ∧ protectedByte .simple [] 4) ∧ (protectedByte .extended [] 2 ∧ protectedByte .extended [] 4) ∧
    (protectedByte .extended (List.replicate 255 0x00#8) 3 ∧ protectedByte .extended (List.replicate 255 0x00#8) 260) ∧
    (protectedByte .telemetry [] 0 ∧ protectedByte .telemetry [] 3 ∧ protectedByte .telemetry [] 4) := by
  unfold protectedByte
  simp only [List.length_replicate, List.length_nil, Nat.reduceLeDiff, ↓reduceIte]
  decide

theorem witness_EveryFlippedBitIsRejected_state :
    frameOf .simple 0x04#8 [] = some simpleFrame ∧ Consistent (armedOn .simple (flipBit simpleFrame 2 7)) ∧
    flipBit simpleFrame 2 7 = [0x02#8, 0x01#8, 0x84#8, 0x73#8, 0xB5#8, 0x03#8] := by decide +kernel

theorem witness_SimpleExtConfusionIsRejected :
    (frameSimple 0x04#8 [] = some simpleFrame ∧ Consistent (armedOn .extended (simpleFrame ++ []))) ∧
    (frameExt 0x04#8 [] = some extFrame ∧ ([] : List Byte).length ≤ 254 ∧ Consistent (armedOn .simple (extFrame ++ []))) ∧
    254 < (List.replicate 255 0x00#8).length := by decide +kernel

/-- A long-header frame in front of a SIMPLE decoder. -/
theorem witness_SimpleExtConfusionIsRejected_long :
    ∃ f, frameExt 0x00#8 (List.replicate 255 0x00#8) = some f ∧ (armedOn .simple (f ++ [])).rxQueue = f ++ [] ∧
      (armedOn .simple (f ++ [])).rxPhase = .start := by
  obtain ⟨f, hf⟩ : ∃ f, frameExt 0x00#8 (List.replicate 255 0x00#8) = some f := ⟨_, frameExt_of_le (by rw [List.length_replicate]; omega)⟩
  exact ⟨f, hf, rfl, rfl⟩

theorem witness_FairDecodeFinishes :
    (Consistent atEnd ∧ atEnd.rxPhase ≠ .idle) ∧ (Consistent (linkCloseStep atEnd) ∧ (linkCloseStep atEnd).rxPhase ≠ .idle) ∧
    ((armedOn .telemetry []).waiting = true ∧ (armedOn .telemetry []).schedule = []) := by decide +kernel

theorem witness_RxWaitEndsWithIdle : Consistent accepted ∧ Consistent (armedOn .telemetry []) := by decide +kernel

theorem witness_LinkStepsChangeLinkAndQueueOnly :
    (sched State.reset [.linkOpen]).schedule = .linkOpen :: [] ∧ (sched opened [.linkClose]).schedule = .linkClose :: [] ∧
    ((sched opened [.linkByte 0x02#8]).schedule = .linkByte 0x02#8 :: [] ∧ (sched opened [.linkByte 0x02#8]).linkOpen = true) ∧
    (sched State.reset [.linkByte 0x02#8]).linkOpen = false ∧
    (sched atEnd (flushInput ++ [.reset])).schedule = flushInput ++ [.reset] ∧
    (sched opened [.drawWrite (.fail 3)]).schedule = .drawWrite (.fail 3) :: [] ∧
    (sched opened (flushOutput ++ [])).schedule = flushOutput ++ [] := by decide

theorem witness_ResetInputResetsTheBlockOnly : (sched atEnd [.reset]).schedule = .reset :: [] := by decide

theorem witness_EveryStepKeepsTheInvariant :
    Consistent atEnd ∧ Consistent atCrcl ∧ Consistent accepted ∧ (view (step atEnd) State.rxPhase).isSome = true := by
  refine ⟨?_, ?_, ?_, ?_⟩ <;> decide +kernel

/-- A well-formed request, a reserved code, and a schedule that holds no host operation. -/
theorem witness_NoTrapAndEveryOperationAccepted :
    Consistent (sched atEnd [.host [0x12#8]]) ∧ requestWf [0x12#8] = true ∧
    Consistent (sched atEnd [.host [0xFF#8]]) ∧ reservedCode 0xFF#8 ∧
    Consistent (sched atEnd [.decoder]) := by
  unfold reservedCode
  refine ⟨?_, ?_, ?_, ?_, ?_⟩ <;> decide +kernel

theorem witness_AcceptedFramesAreEncodable : Consistent accepted ∧ accepted.rxResult = .frame := by decide +kernel

/-! ### Runs without end -/

/-- The states a sequence of events leads through from `s`; a step that stops leaves the state. -/
def statesFrom (events : Nat → Event) (s : State) : Nat → State
  | 0 => s
  | n + 1 =>
    match step (sched (statesFrom events s n) [events n]) with
    | .next t => t
    | .fault _ => statesFrom events s n
    | .refused _ => statesFrom events s n

/-- A byte arrives during a decode and is taken, the timer draws later, and the host asks RX_STATUS from then on. -/
def watchedEvents : Nat → Event
  | 0 => .linkByte 0x02#8
  | 1 => .decoder
  | 2 => .timeout
  | _ + 3 => .host (encode .rxStatus)

def watchedStates : Nat → State := statesFrom watchedEvents (armedOn .simple [])

theorem watched_next : IsRun watchedEvents watchedStates := by
  intro n
  match n with
  | 0 => rfl
  | 1 => rfl
  | 2 => rfl
  | _ + 3 => rfl

theorem watched_idle (n : Nat) : (watchedStates (n + 3)).rxPhase = .idle := by
  induction n with
  | zero => decide
  | succ n ih => exact ih

/-- A kind of step that only an armed decoder has is fairly taken in a run whose decoder is idle in the end. -/
theorem weaklyFair_of_idle {enabled : State → Bool} {ev : Event} (h : ∀ s, enabled s = true → s.rxPhase ≠ .idle) :
    WeaklyFair enabled ev watchedEvents watchedStates := by
  intro n hn
  exact absurd (watched_idle n) (h _ (hn (n + 3) (by omega)))

theorem watched_fair : FairRun watchedEvents watchedStates ∧ LinkSettles watchedEvents := by
  refine ⟨⟨watched_next, ?_, ?_, ?_⟩, 3, fun m hm => ?_⟩
  · exact weaklyFair_of_idle fun s => by simp +contextual [State.canTake, State.armed]
  · exact weaklyFair_of_idle fun s => by simp +contextual [State.cutOff, State.armed]
  · exact weaklyFair_of_idle fun s => by simp +contextual [State.waiting, State.armed]
  · obtain ⟨k, rfl⟩ := Nat.exists_eq_add_of_le hm
    rw [Nat.add_comm 3 k]
    simp [watchedEvents]

theorem watched_jointlyFair : JointlyFairRun watchedEvents watchedStates := by
  refine ⟨watched_next, fun n hn => ?_⟩
  have := hn (n + 3) (by omega)
  simp [State.armed, watched_idle] at this

theorem witness_EveryFairDecodeFinishes :
    (FairRun watchedEvents watchedStates ∧ LinkSettles watchedEvents) ∧ JointlyFairRun watchedEvents watchedStates ∧
    Consistent (watchedStates 0) ∧ (watchedStates 0).rxPhase ≠ .idle :=
  ⟨watched_fair, watched_jointlyFair, by decide +kernel⟩

theorem witness_RxWaitEndsInEveryFairRun :
    (FairRun watchedEvents watchedStates ∧ LinkSettles watchedEvents) ∧ Consistent (watchedStates 0) ∧
    (∀ m request, 0 ≤ m → watchedEvents m = .host request → request = encode .rxStatus) ∧
    (∀ m, 0 ≤ m → ∃ k, m ≤ k ∧ watchedEvents k = .host (encode .rxStatus)) := by
  refine ⟨watched_fair, by decide +kernel, fun m request _ h => ?_, fun m _ => ⟨m + 3, by omega, rfl⟩⟩
  match m, h with
  | _ + 3, h => exact (Event.host.inj h).symm

/-- A link that closes and opens again for ever, with no step of the decoder between. -/
def togglingEvents (n : Nat) : Event := if n % 2 = 0 then .linkClose else .linkOpen

def togglingStates (n : Nat) : State := { armedOn .simple [] with linkOpen := n % 2 = 0 }

/-- Why the claim over FairRun takes a link that settles (log 16): this run is fair kind by kind, and its decode never ends. -/
theorem test_weakFairnessNeedsASettlingLink :
    FairRun togglingEvents togglingStates ∧ Consistent (togglingStates 0) ∧ ∀ n, (togglingStates n).armed = true := by
  have odd : ∀ n, ∃ m, n ≤ m ∧ m % 2 = 1 := fun n => ⟨2 * n + 1, by omega, by omega⟩
  have even : ∀ n, ∃ m, n ≤ m ∧ m % 2 = 0 := fun n => ⟨2 * n, by omega, by omega⟩
  refine ⟨⟨fun n => ?_, fun n hn => ?_, fun n hn => ?_, fun n hn => ?_⟩, by decide +kernel, fun n => rfl⟩
  · rcases Nat.mod_two_eq_zero_or_one n with h | h
    · simp [togglingEvents, togglingStates, h, step, eventStep, linkCloseStep, armedOn, opened, State.reset,
        show (n + 1) % 2 = 1 by omega]
    · simp [togglingEvents, togglingStates, h, step, eventStep, linkOpenStep, armedOn, opened, State.reset,
        show (n + 1) % 2 = 0 by omega]
  · exact absurd (hn n (Nat.le_refl n)) (by simp [State.canTake, togglingStates, armedOn])
  · obtain ⟨m, hm, h⟩ := even n
    exact absurd (hn m hm) (by simp [State.cutOff, togglingStates, h])
  · obtain ⟨m, hm, h⟩ := odd n
    exact absurd (hn m hm) (by simp [State.waiting, togglingStates, h])

end Sys2Proof.Tests
end

/-! PROOFS. Requests with a reserved code, and the layout of the encoder's frames (family 30_encoding). -/

namespace Sys2Proof.Proofs.Encoding

open Sys2Proof Sys2Proof.Machine Sys2Proof.Safety

/-! ### Reserved operation codes (R83) -/

/-- The ranges of R83 are the complement of the code column of R81's table. -/
theorem reservedCode_iff_not_listed (op : Byte) :
    reservedCode op ↔
      op ∉ [0x10#8, 0x11#8, 0x12#8, 0x20#8, 0x21#8, 0x22#8, 0x30#8, 0x31#8, 0x32#8, 0x34#8, 0x35#8, 0x36#8, 0x40#8] := by
  have := op.isLt
  simp only [reservedCode, List.mem_cons, List.not_mem_nil, or_false, not_or,
    BitVec.toNat_eq, BitVec.toNat_ofNat]
  omega

theorem not_reservedCode_code (o : OpCode) : ¬ reservedCode o.code := by
  unfold reservedCode
  cases o <;> decide

/-- No mnemonic stands for a reserved code. -/
theorem ofByte_eq_none_of_reservedCode {op : Byte} (h : reservedCode op) : OpCode.ofByte op = none := by
  rw [Option.eq_none_iff_forall_ne_some]
  intro o ho
  obtain rfl := (OpCode.ofByte_iff op o).1 ho
  exact not_reservedCode_code o h

/-- The host's step on a request whose code is no mnemonic's. -/
theorem hostStep_of_ofByte_eq_none {op : Byte} (h : OpCode.ofByte op = none) (args : List Byte) (s : State) :
    hostStep (op :: args) s = .next (s.respond (.plain .illegalOp)) := by
  simp only [hostStep, decode_reserved args h]

/-- Where a host's request is next, a step is the host's. -/
theorem step_of_host {request : List Byte} {rest : List Event} {s : State} (h : s.schedule = .host request :: rest) :
    step s = hostStep request { s with schedule := rest } := by
  simp only [step, h, eventStep]

/-- Settles O3: the ranges by their bounds, the step through the decoder's rejection of a code that is no mnemonic's. -/
theorem reservedCodesAnswerIllegalOp : Obligations.ReservedCodesAnswerIllegalOp := by
  refine ⟨reservedCode_iff_not_listed, fun op args rest s hop hs => ?_⟩
  rw [step_of_host hs, hostStep_of_ofByte_eq_none (ofByte_eq_none_of_reservedCode hop)]
  rfl

/-! ### Offsets into a frame: a three-byte head, the payload, a trailer (R71, R74) -/

section Offsets

variable {a b c : Byte} {p tl : List Byte}

theorem getElem?_payload {k : Nat} (hk : k < p.length) : (a :: b :: c :: (p ++ tl))[3 + k]? = p[k]? := by
  rw [Nat.add_comm]
  exact List.getElem?_append_left hk

theorem getElem?_trailer (j : Nat) : (a :: b :: c :: (p ++ tl))[3 + p.length + j]? = tl[j]? := by
  rw [show 3 + p.length + j = p.length + j + 3 by omega]
  simp only [List.getElem?_cons_succ]
  rw [List.getElem?_append_right (by omega), Nat.add_sub_cancel_left]

end Offsets

/-! ### The frames (R71, R72, R74, R78) -/

/-- A two-byte length field, high byte first, holds every length up to 65535. -/
theorem lengthBytes_toNat {n : Nat} (h : n ≤ 65535) :
    (BitVec.ofNat 8 (n / 256)).toNat * 256 + (BitVec.ofNat 8 n).toNat = n := by
  rw [BitVec.toNat_ofNat, BitVec.toNat_ofNat]
  omega

/-- The SIMPLE frame as three-byte head, payload and trailer. -/
theorem frameSimple_eq_head_payload_trailer {c : Byte} {p : List Byte} (h : p.length ≤ 254) :
    frameSimple c p = some (0x02#8 :: BitVec.ofNat 8 (p.length + 1) :: c ::
      (p ++ (be16 (crc16 (BitVec.ofNat 8 (p.length + 1) :: c :: p)) ++ [0x03#8]))) := by
  simp [frameSimple_of_le h]

/-- The TELEMETRY frame as three-byte head, payload and trailer. -/
theorem frameTlm_eq_head_payload_trailer {c : Byte} {p : List Byte} (h : p.length ≤ 65535) :
    frameTlm c p = some (c :: BitVec.ofNat 8 (p.length / 256) :: BitVec.ofNat 8 p.length ::
      (p ++ be16 (crc16 (c :: BitVec.ofNat 8 (p.length / 256) :: BitVec.ofNat 8 p.length :: p)))) := by
  simp [frameTlm_of_le h]

/-- Settles O20: the offsets of a frame in head, payload and trailer. -/
theorem simpleFrameLayout : Obligations.SimpleFrameLayout := by
  intro c p hp
  refine ⟨_, frameSimple_eq_head_payload_trailer hp, by simp, rfl, ⟨_, rfl, Nat.mod_eq_of_lt (by omega)⟩, rfl,
    fun _ => getElem?_payload,
    ⟨_, _, getElem?_trailer 0, getElem?_trailer 1, highByte_lowByte_toNat _⟩, ?_⟩
  rw [show 5 + p.length = 3 + p.length + 2 by omega]
  exact getElem?_trailer 2

/-- Settles O21: the bound decides whether there is a frame, and the two cases of the header follow R78's threshold. -/
theorem extFrameHeaderAndLayout : Obligations.ExtFrameHeaderAndLayout := by
  intro c p
  refine ⟨fun h => frameExt_of_gt (by omega), fun h =>
    ⟨extHeader (p.length + 1), c :: p, _, frameExt_of_le (by omega), rfl, rfl, fun hshort => ?_, fun hlong => ?_⟩⟩
  · rw [extHeader_of_le hshort]
    exact ⟨by simp, _, rfl, Nat.mod_eq_of_lt (by omega)⟩
  · rw [extHeader_of_gt (by omega)]
    exact ⟨by simp, _, _, rfl, lengthBytes_toNat h⟩

/-- Settles O22: the offsets of a frame in head, payload and trailer; the trailer is the CRC alone. -/
theorem tlmFrameLayout : Obligations.TlmFrameLayout := by
  intro c p hp
  exact ⟨_, frameTlm_eq_head_payload_trailer hp, by simp, rfl,
    ⟨_, _, rfl, rfl, lengthBytes_toNat hp,
      _, _, getElem?_trailer 0, getElem?_trailer 1, highByte_lowByte_toNat _⟩,
    fun _ => getElem?_payload⟩

end Sys2Proof.Proofs.Encoding

/-! PROOFS. The bit step and the byte step, the accumulator's operations, and runs that feed it (family 40_crc). -/

namespace Sys2Proof.Proofs.Crc

open Sys2Proof Sys2Proof.Machine Sys2Proof.Safety

/-! ### The bit step as arithmetic (R102) -/

/-- Bit 15 of a word splits its values at 0x8000. -/
theorem getLsbD_fifteen_iff (a : Word) : a.getLsbD 15 = true ↔ 0x8000 ≤ a.toNat := by
  rw [← BitVec.msb_eq_getLsbD_last a, BitVec.msb_eq_decide, decide_eq_true_iff]

theorem shiftStep_toNat_of_lt {a : Word} (h : a.toNat < 0x8000) : (shiftStep a).toNat = 2 * a.toNat := by
  rw [shiftStep, if_neg (mt (getLsbD_fifteen_iff a).1 (Nat.not_le_of_lt h)), BitVec.toNat_shiftLeft, Nat.shiftLeft_eq]
  omega

theorem shiftStep_toNat_of_le {a : Word} (h : 0x8000 ≤ a.toNat) :
    (shiftStep a).toNat = (2 * a.toNat) % 0x10000 ^^^ 0x1021 := by
  rw [shiftStep, if_pos ((getLsbD_fifteen_iff a).2 h), BitVec.toNat_xor, BitVec.toNat_shiftLeft, Nat.shiftLeft_eq,
    Nat.mul_comm]
  rfl

/-- Settles O12: by the accumulator's high bit; masking commutes with XOR, as 0x1021 is within the mask. -/
theorem shiftStepDoublesAndReduces : Obligations.ShiftStepDoublesAndReduces := by
  intro a
  by_cases h : a.toNat < 0x8000
  · simp only [if_pos h, shiftStep_toNat_of_lt h, and_self]
  · have hdrop : (2 * a.toNat) % 0x10000 = 2 * a.toNat - 0x10000 := by have := a.isLt; omega
    have hmask : ((2 * a.toNat) ^^^ 0x1021) % 0x10000 = (2 * a.toNat) % 0x10000 ^^^ 0x1021 :=
      Nat.xor_mod_two_pow (n := 16)
    rw [if_neg h, if_neg h, hmask, shiftStep_toNat_of_le (Nat.le_of_not_lt h), hdrop]
    exact ⟨rfl, rfl⟩

/-! ### The bit-serial form (R106) -/

theorem bitSerialStep_eq (a : Word) (bit : Bool) :
    bitSerialStep a bit = shiftStep a ^^^ (if bit then crcPolynomial else 0x0000#16) := by
  unfold bitSerialStep shiftStep
  cases a.getLsbD 15 <;> cases bit <;> simp

theorem inHighByte_shiftLeft_one (b : Byte) : inHighByte b <<< 1 = inHighByte (b <<< 1) := by
  simp only [inHighByte, zext16]
  bv_omega

theorem shiftStep_inHighByte (b : Byte) :
    shiftStep (inHighByte b) = (if b.getLsbD 7 then crcPolynomial else 0x0000#16) ^^^ inHighByte (b <<< 1) := by
  have hbit : (inHighByte b).getLsbD 15 = b.getLsbD 7 := by simp [inHighByte, zext16]
  rw [shiftStep, hbit, inHighByte_shiftLeft_one]
  cases b.getLsbD 7 <;> simp [BitVec.xor_comm]

/-- A bit step with a byte waiting in the high byte is a bit-serial step on the byte's top bit, with the rest of the
byte still waiting. -/
theorem shiftStep_xor_inHighByte (a : Word) (b : Byte) :
    shiftStep (a ^^^ inHighByte b) = bitSerialStep a (b.getLsbD 7) ^^^ inHighByte (b <<< 1) := by
  rw [shiftStep_xor, shiftStep_inHighByte, bitSerialStep_eq, BitVec.xor_assoc]

/-- After `n` bit steps of a byte, its `n` top bits are fed and the others wait in the high byte. -/
theorem shiftStep_iterate_xor_inHighByte (a : Word) (b : Byte) {n : Nat} (hn : n ≤ 8) :
    shiftStep^[n] (a ^^^ inHighByte b) =
      (List.range n).foldl (fun acc k => bitSerialStep acc (b.getLsbD (7 - k))) a ^^^ inHighByte (b <<< n) := by
  induction n with
  | zero => simp
  | succ n ih =>
    have htop : (b <<< n).getLsbD 7 = b.getLsbD (7 - n) := by
      rw [BitVec.getLsbD_shiftLeft]; simp [show ¬ 7 < n by omega]
    rw [Function.iterate_succ_apply', ih (by omega), shiftStep_xor_inHighByte, htop, ← BitVec.shiftLeft_add,
      List.range_succ, List.foldl_append]
    rfl

/-- Settles O13: after eight bit steps the whole byte is fed and nothing waits in the high byte. -/
theorem bitSerialFormAgrees : Obligations.BitSerialFormAgrees := by
  intro a b
  have hfed : inHighByte (b <<< 8) = 0x0000#16 := by simp [inHighByte, zext16]
  rw [byteStep_eq, shiftStep_iterate_xor_inHighByte a b (Nat.le_refl 8), hfed, BitVec.xor_zero]
  rfl

/-! ### The operations on the accumulator (R107 to R109) -/

theorem exec_crcClear (s : State) :
    exec .crcClear s = .next ({ s with crcAcc := 0x0000#16 }.respond (.plain .ok)) := rfl

theorem exec_crcByte (b : Byte) (s : State) :
    exec (.crcByte b) s = .next ((s.setCrc (byteStep s.crcAcc b)).respond (.plain .ok)) := rfl

theorem exec_crcRead (s : State) : exec .crcRead s = .next (s.respond (.value s.crcAcc)) := rfl

/-- Settles O8. -/
theorem crcClearClearsAccumulator : Obligations.CrcClearClearsAccumulator :=
  ⟨rfl, exec_crcClear⟩

/-- Settles O9: CRC_BYTE's byte step is eight bit steps. -/
theorem crcByteTakesEightBitSteps : Obligations.CrcByteTakesEightBitSteps := by
  intro b s
  refine ⟨rfl, ?_⟩
  rw [exec_crcByte, byteStep_eq]
  rfl

/-- Settles O10. -/
theorem crcReadReturnsAccumulator : Obligations.CrcReadReturnsAccumulator :=
  ⟨rfl, exec_crcRead⟩

/-! ### The host's step on an operation's request (R81) -/

theorem decode_encode (i : Instr) : decode (encode i) = .ok i := by
  have hops : decodeOperands i.opCode i.operands = some i := decodeOperands_eq_some_iff.2 ⟨rfl, rfl⟩
  simp only [encode, decode, OpCode.ofByte_code, hops]

/-- An operation has no request but its own. -/
theorem eq_encode_of_decode_eq_ok {request : List Byte} {i : Instr} (h : decode request = .ok i) :
    request = encode i := by
  rcases request with _ | ⟨op, args⟩
  · cases h
  · simp only [decode] at h
    split at h
    · cases h
    next o ho =>
      split at h
      next j hj =>
        cases h
        obtain ⟨rfl, rfl⟩ := decodeOperands_eq_some_iff.1 hj
        rw [(OpCode.ofByte_iff op _).1 ho]
        rfl
      · cases h

theorem eventStep_encode (i : Instr) (s : State) : eventStep (.host (encode i)) s = exec i s := by
  simp only [eventStep, hostStep, decode_encode]

/-- Where an operation's request is next, a step runs the operation. -/
theorem step_of_encode {i : Instr} {rest : List Event} {s : State} (h : s.schedule = .host (encode i) :: rest) :
    step s = exec i { s with schedule := rest } :=
  (Encoding.step_of_host h).trans (eventStep_encode i _)

theorem run_succ_of_encode {i : Instr} {rest : List Event} {s t : State} (n : Nat)
    (h : s.schedule = .host (encode i) :: rest) (hexec : exec i { s with schedule := rest } = .next t) :
    run (n + 1) s = run n t := by
  rw [run_succ, step_of_encode h, hexec, andThen_next]

theorem run_add_of_eq_next {a : Nat} {s t : State} (b : Nat) (h : run a s = .next t) : run (a + b) s = run b t := by
  rw [run_add, h, andThen_next]

/-! ### What leaves the accumulator and the schedule alone (R22) -/

@[simp] theorem txEncode_crcAcc (v : Variant) (c : Byte) (p : List Byte) (s : State) :
    (txEncode v c p s).crcAcc = s.crcAcc := by
  obtain ⟨r, h⟩ | ⟨f, n, w, r, -, -, h⟩ := txEncode_cases v c p s <;> rw [h] <;> rfl

@[simp] theorem txEncode_schedule (v : Variant) (c : Byte) (p : List Byte) (s : State) :
    (txEncode v c p s).schedule = s.schedule := by
  obtain ⟨r, h⟩ | ⟨f, n, w, r, -, -, h⟩ := txEncode_cases v c p s <;> rw [h] <;> rfl

@[simp] theorem arm_crcAcc (v : Variant) (en : Bool) (id : Byte) (s : State) : (arm v en id s).crcAcc = s.crcAcc := by
  unfold arm; split <;> rfl

@[simp] theorem arm_schedule (v : Variant) (en : Bool) (id : Byte) (s : State) :
    (arm v en id s).schedule = s.schedule := by
  unfold arm; split <;> rfl

@[simp] theorem linkByteStep_crcAcc (b : Byte) (s : State) : (linkByteStep b s).crcAcc = s.crcAcc := by
  unfold linkByteStep; split <;> rfl

@[simp] theorem linkByteStep_schedule (b : Byte) (s : State) : (linkByteStep b s).schedule = s.schedule := by
  unfold linkByteStep; split <;> rfl

theorem exec_schedule {i : Instr} {s t : State} (h : exec i s = .next t) : t.schedule = s.schedule := by
  cases i <;> cases h
  case txEncodeSimple | txEncodeExt | txEncodeTlm => exact txEncode_schedule _ _ _ s
  case crcClear | crcByte | crcRead | rxStatus => rfl
  all_goals exact arm_schedule _ _ _ s

/-- No operation but CRC_CLEAR and CRC_BYTE writes the accumulator. -/
theorem exec_crcAcc {i : Instr} {s t : State} (h : exec i s = .next t) (hclear : i ≠ .crcClear)
    (hbyte : ∀ b, i ≠ .crcByte b) : t.crcAcc = s.crcAcc := by
  cases i <;> cases h
  case crcClear => exact absurd rfl hclear
  case crcByte b => exact absurd rfl (hbyte b)
  case crcRead | rxStatus => rfl
  case txEncodeSimple | txEncodeExt | txEncodeTlm => exact txEncode_crcAcc _ _ _ s
  all_goals exact arm_crcAcc _ _ _ s

/-- No agent's step writes the schedule it is taken from. -/
theorem eventStep_schedule {ev : Event} {s t : State} (h : eventStep ev s = .next t) : t.schedule = s.schedule := by
  cases ev with
  | host request =>
    obtain ⟨i, -, hexec⟩ | ⟨op, args, -, -, rfl⟩ := hostStep_cases h
    · exact exec_schedule hexec
    · rfl
  | decoder =>
    obtain ⟨⟨-, -, -, -, hsched, -⟩, -⟩ := decoderStep_elsewhere h
    exact hsched.symm
  | timeout =>
    cases h
    obtain ⟨⟨-, -, -, -, hsched, -⟩, -⟩ := timeoutStep_elsewhere s
    exact hsched.symm
  | linkByte b => cases h; exact linkByteStep_schedule b s
  | linkOpen | linkClose | drawWrite w | reset => cases h; rfl

/-- No agent's step but CRC_CLEAR, CRC_BYTE and RESET writes the accumulator (R22). -/
theorem eventStep_crcAcc {ev : Event} {s t : State} (h : eventStep ev s = .next t) (hreset : ev ≠ .reset)
    (hclear : ev ≠ .host (encode .crcClear)) (hbyte : ∀ b, ev ≠ .host (encode (.crcByte b))) :
    t.crcAcc = s.crcAcc := by
  cases ev with
  | host request =>
    obtain ⟨i, hi, hexec⟩ | ⟨op, args, -, -, rfl⟩ := hostStep_cases h
    · obtain rfl := eq_encode_of_decode_eq_ok hi
      exact exec_crcAcc hexec (fun hc => hclear (hc ▸ rfl)) (fun b hb => hbyte b (hb ▸ rfl))
    · rfl
  | decoder =>
    obtain ⟨⟨hacc, -⟩, -⟩ := decoderStep_elsewhere h
    exact hacc.symm
  | timeout =>
    cases h
    obtain ⟨⟨hacc, -⟩, -⟩ := timeoutStep_elsewhere s
    exact hacc.symm
  | linkByte b => cases h; exact linkByteStep_crcAcc b s
  | reset => exact absurd rfl hreset
  | linkOpen | linkClose | drawWrite w => cases h; rfl

/-! ### The bytes a schedule feeds (R110) -/

theorem fedBytes_cons_crcByte (b : Byte) (events : List Event) :
    fedBytes (.host (encode (.crcByte b)) :: events) = b :: fedBytes events := rfl

theorem fedBytes_cons_of_ne {ev : Event} (h : ∀ b, ev ≠ .host (encode (.crcByte b))) (events : List Event) :
    fedBytes (ev :: events) = fedBytes events := by
  refine List.filterMap_cons_none ?_
  split
  next request =>
    split
    next b hb => exact absurd (congrArg Event.host (eq_encode_of_decode_eq_ok hb)) (h b)
    · rfl
  · rfl

/-- Every step but CRC_CLEAR and RESET takes the accumulator on by the bytes it feeds: one of a CRC_BYTE, else none. -/
theorem eventStep_foldl_fedBytes {ev : Event} {s t : State} (h : eventStep ev s = .next t) (hreset : ev ≠ .reset)
    (hclear : ev ≠ .host (encode .crcClear)) (events : List Event) :
    (fedBytes events).foldl byteStep t.crcAcc = (fedBytes (ev :: events)).foldl byteStep s.crcAcc := by
  by_cases hbyte : ∃ b, ev = .host (encode (.crcByte b))
  · obtain ⟨b, rfl⟩ := hbyte
    rw [eventStep_encode, exec_crcByte] at h
    cases h
    rfl
  · rw [not_exists] at hbyte
    rw [fedBytes_cons_of_ne hbyte, eventStep_crcAcc h hreset hclear hbyte]

/-- A run through a schedule without CRC_CLEAR and RESET feeds the accumulator the schedule's bytes, whatever else comes
between them. -/
theorem run_crcAcc {events : List Event} {s t : State} (hreset : .reset ∉ events)
    (hclear : .host (encode .crcClear) ∉ events) (hs : s.schedule = events)
    (h : run events.length s = .next t) : t.crcAcc = (fedBytes events).foldl byteStep s.crcAcc := by
  induction events generalizing s with
  | nil => cases h; rfl
  | cons ev rest ih =>
    rw [List.length_cons, run_succ] at h
    obtain ⟨u, hu, hrun⟩ := andThen_eq_next h
    simp only [step, hs] at hu
    rw [List.mem_cons, not_or] at hreset hclear
    rw [ih hreset.2 hclear.2 (eventStep_schedule hu) hrun,
      eventStep_foldl_fedBytes hu (Ne.symm hreset.1) (Ne.symm hclear.1)]

/-! ### The pseudo-operation `crc.compute` (R86, R110) -/

/-- CRC_BYTEs issued one after the other feed their bytes, answer OK each, and leave the rest of the schedule. -/
theorem run_crcBytes (d : List Byte) {rest : List Event} {s : State}
    (hs : s.schedule = hostEvents (d.map .crcByte) ++ rest) :
    ∃ t, run d.length s = .next t ∧ t.schedule = rest ∧ t.crcAcc = d.foldl byteStep s.crcAcc ∧
      t.responses = s.responses ++ List.replicate d.length (.plain .ok) := by
  induction d generalizing s with
  | nil => exact ⟨s, rfl, hs, rfl, by simp⟩
  | cons b d ih =>
    obtain ⟨t, hrun, hsched, hacc, hresp⟩ := ih
      (s := (State.setCrc { s with schedule := hostEvents (d.map .crcByte) ++ rest } (byteStep s.crcAcc b)).respond
        (.plain .ok)) rfl
    refine ⟨t, (run_succ_of_encode d.length hs (exec_crcByte b _)).trans hrun, hsched, hacc, ?_⟩
    simp [hresp, List.replicate_succ]

/-- CRC_CLEAR, CRC_BYTEs and CRC_READ issued one after the other. -/
theorem run_crcCompute {d : List Byte} {s : State} (hs : s.schedule = hostEvents (crcCompute d)) :
    ∃ t, run (d.length + 2) s = .next t ∧ t.crcAcc = crc16 d ∧
      t.responses = s.responses ++ List.replicate (d.length + 1) (.plain .ok) ++ [.value (crc16 d)] := by
  have hclear : s.schedule = .host (encode .crcClear) :: (hostEvents (d.map .crcByte) ++ hostEvents [.crcRead]) := by
    rw [hs]; simp [hostEvents, crcCompute]
  obtain ⟨t, hrun, hsched, hacc, hresp⟩ := run_crcBytes d
    (s := State.respond { s with schedule := hostEvents (d.map .crcByte) ++ hostEvents [.crcRead], crcAcc := 0x0000#16 }
      (.plain .ok)) rfl
  have hcrc : t.crcAcc = crc16 d := hacc
  refine ⟨State.respond { t with schedule := [] } (.value t.crcAcc), ?_, hcrc, ?_⟩
  · calc run (d.length + 2) s
      _ = run (d.length + 1) _ := run_succ_of_encode _ hclear (exec_crcClear _)
      _ = run 1 t := run_add_of_eq_next 1 hrun
      _ = _ := run_succ_of_encode 0 hsched (exec_crcRead _)
  · simp [hresp, hcrc, List.replicate_succ]

/-- Settles O18: by the run of `crc.compute`, and by induction on the schedule for the runs with other steps between. -/
theorem crcComputeReturnsCrc16 : Obligations.CrcComputeReturnsCrc16 := by
  refine ⟨fun d s hs => run_crcCompute hs, fun events s t hreset hclear => ⟨fun hs h => ?_, run_crcAcc hreset hclear⟩⟩
  rw [run_succ_of_encode _ hs (exec_crcClear _)] at h
  exact run_crcAcc hreset hclear rfl h

end Sys2Proof.Proofs.Crc

/-! PROOFS. The encoder's operations and the CRCs of its frames (family 41_framer_tx). -/

namespace Sys2Proof.Proofs.FramerTx

open Sys2Proof Sys2Proof.Machine Sys2Proof.Safety

/-! ### `tx_encode` (R135): the frame function decides first, then the write (R134) -/

section TxEncode

variable {v : Variant} {c : Byte} {p f : List Byte} {s : State}

theorem txEncode_of_frameOf_eq_none (h : frameOf v c p = none) (s : State) :
    txEncode v c p s = s.respond (.plain .tooLong) := by
  simp only [txEncode, h]

theorem txEncode_of_frameOf_eq_some (h : frameOf v c p = some f) (s : State) : txEncode v c p s = txEmit f s := by
  simp only [txEncode, h]

variable {i : Instr} (hi : exec i s = .next (txEncode v c p s))
include hi

/-- Without a frame the operation answers TOO_LONG, whatever the link. -/
theorem exec_of_no_frame (h : frameOf v c p = none) :
    exec i s = .next { s with responses := s.responses ++ [.plain .tooLong] } := by
  rw [hi, txEncode_of_frameOf_eq_none h]
  rfl

theorem exec_of_closed (h : frameOf v c p = some f) (hl : s.linkOpen = false) :
    exec i s = .next { s with responses := s.responses ++ [.plain .linkError] } := by
  rw [hi, txEncode_of_frameOf_eq_some h, txEmit_closed hl]
  rfl

/-- The two outcomes of a write on an open link. -/
theorem exec_of_open (h : frameOf v c p = some f) (hl : s.linkOpen = true) :
    (s.writeDraw = .ok → ∃ w, exec i s = .next { s with
      txLine := s.txLine ++ f, writeDraw := w, responses := s.responses ++ [.plain .ok] }) ∧
    (∀ k, k ≤ f.length → s.writeDraw = .fail k → ∃ w, exec i s = .next { s with
      txLine := s.txLine ++ f.take k, writeDraw := w, responses := s.responses ++ [.plain .linkError] }) := by
  rw [hi, txEncode_of_frameOf_eq_some h]
  refine ⟨fun hw => ⟨s.writeDraw, ?_⟩, fun k _ hw => ⟨.ok, ?_⟩⟩
  · rw [txEmit_ok hl hw]
    rfl
  · rw [txEmit_fail hl hw]
    rfl

end TxEncode

/-! ### The operations (R136 to R138) -/

theorem exec_txEncodeSimple (c : Byte) (p : List Byte) (s : State) :
    exec (.txEncodeSimple c p) s = .next (txEncode .simple c p s) := rfl

theorem exec_txEncodeExt (c : Byte) (p : List Byte) (s : State) :
    exec (.txEncodeExt c p) s = .next (txEncode .extended c p s) := rfl

theorem exec_txEncodeTlm (c : Byte) (p : List Byte) (s : State) :
    exec (.txEncodeTlm c p) s = .next (txEncode .telemetry c p s) := rfl

/-- The EXTENDED frame from its header as R137 gives it: short to payload length 254, long above. -/
theorem frameExt_eq_of_header {c : Byte} {p hdr : List Byte} (hp : p.length ≤ 65534)
    (hshort : p.length ≤ 254 → hdr = [0x02#8, BitVec.ofNat 8 (p.length + 1)])
    (hlong : 254 < p.length →
      hdr = [0x03#8, BitVec.ofNat 8 ((p.length + 1) / 256), BitVec.ofNat 8 (p.length + 1)]) :
    frameExt c p = some (hdr ++ [c] ++ p ++ be16 (crc16 (c :: p)) ++ [0x03#8]) := by
  have hhdr : extHeader (p.length + 1) = hdr := by
    rcases Nat.lt_or_ge 254 p.length with h | h
    · rw [hlong h, extHeader_of_gt (by omega)]
    · rw [hshort h, extHeader_of_le (by omega)]
  simp [frameExt_of_le hp, hhdr]

/-- Settles O23: the bound decides whether there is a frame, and then the link and its draw. -/
theorem txEncodeSimpleOutcomes : Obligations.TxEncodeSimpleOutcomes := by
  intro c p s
  have hexec := exec_txEncodeSimple c p s
  refine ⟨rfl, fun hp => exec_of_no_frame hexec (frameSimple_of_gt hp),
    fun hp hl => exec_of_closed hexec (frameSimple_of_le hp) hl, fun hp hl cov f hcov hf => ?_⟩
  subst hf hcov
  exact exec_of_open hexec (frameSimple_of_le hp) hl

/-- Settles O24: as O23, with the header by its two cases. -/
theorem txEncodeExtOutcomes : Obligations.TxEncodeExtOutcomes := by
  intro c p s
  have hexec := exec_txEncodeExt c p s
  refine ⟨rfl, fun hp => exec_of_no_frame hexec (frameExt_of_gt hp),
    fun hp hl => exec_of_closed hexec (frameExt_of_le hp) hl, fun hp hl hdr f hshort hlong hf => ?_⟩
  subst hf
  exact exec_of_open hexec (frameExt_eq_of_header hp hshort hlong) hl

/-- Settles O25: as O23, with the undelimited frame. -/
theorem txEncodeTlmOutcomes : Obligations.TxEncodeTlmOutcomes := by
  intro c p s
  have hexec := exec_txEncodeTlm c p s
  refine ⟨rfl, fun hp => exec_of_no_frame hexec (frameTlm_of_gt hp),
    fun hp hl => exec_of_closed hexec (frameTlm_of_le hp) hl, fun hp hl cov f hcov hf => ?_⟩
  subst hf hcov
  exact exec_of_open hexec (frameTlm_of_le hp) hl

/-! ### SIMPLE and EXTENDED frames side by side (R139) -/

/-- A nonzero byte in front changes the CRC: it takes the accumulator off zero, and no byte after it brings two different
accumulators together. -/
theorem crc16_cons_ne {b : Byte} (hb : b ≠ 0x00#8) (x : List Byte) : crc16 (b :: x) ≠ crc16 x := by
  intro h
  have hacc : byteStep 0x0000#16 b = 0x0000#16 := foldl_byteStep_injective x h
  exact hb (byteStep_right_injective (hacc.trans byteStep_zero.symm))

/-- The length byte of a SIMPLE frame is not zero: it counts the command id. -/
theorem lengthByte_ne_zero {n : Nat} (h : n ≤ 254) : BitVec.ofNat 8 (n + 1) ≠ 0x00#8 := by
  bv_omega

/-- The header by the payload's length, one less than the declared length. -/
theorem extHeader_succ_length (n : Nat) : (extHeader (n + 1)).length = if n ≤ 254 then 2 else 3 := by
  split
  next h => rw [extHeader_of_le (by omega)]; rfl
  next h => rw [extHeader_of_gt (by omega)]; rfl

theorem frameSimple_length {c : Byte} {p f : List Byte} (h : frameOf .simple c p = some f) :
    f.length = p.length + 6 := by
  cases (frameSimple_of_le (length_le_of_frameOf h)).symm.trans h
  simp

theorem frameExt_length {c : Byte} {p f : List Byte} (h : frameOf .extended c p = some f) :
    f.length = p.length + if p.length ≤ 254 then 6 else 7 := by
  cases (frameExt_of_le (length_le_of_frameOf h)).symm.trans h
  simp only [List.length_append, List.length_cons, List.length_nil, be16_length, extHeader_succ_length]
  split <;> omega

theorem frameTlm_length {c : Byte} {p f : List Byte} (h : frameOf .telemetry c p = some f) :
    f.length = p.length + 5 := by
  cases (frameTlm_of_le (length_le_of_frameOf h)).symm.trans h
  simp

/-- Settles O26: the CRC of a SIMPLE frame covers the length byte besides, which is not zero. -/
theorem simpleAndExtFramesDifferOnlyInCrc : Obligations.SimpleAndExtFramesDifferOnlyInCrc := by
  refine ⟨fun v c p f h => ?_, fun c p hp => ?_, by decide +kernel, by decide +kernel⟩
  · cases v with
    | simple => exact frameSimple_length h
    | extended => exact frameExt_length h
    | telemetry => exact frameTlm_length h
  · refine ⟨[0x02#8, BitVec.ofNat 8 (p.length + 1), c] ++ p, crc16 (BitVec.ofNat 8 (p.length + 1) :: c :: p),
      crc16 (c :: p), frameSimple_of_le hp, ?_, crc16_cons_ne (lengthByte_ne_zero hp) _⟩
    rw [frameExt_of_le (by omega), extHeader_of_le (by omega)]
    rfl

end Sys2Proof.Proofs.FramerTx

/-! PROOFS. The decoder's operations, its byte steps and whole decodes (family 42_framer_rx). -/

namespace Sys2Proof.Proofs.FramerRx

open Sys2Proof Sys2Proof.Machine Sys2Proof.Safety

/-! ### The decoder's host operations (R162, R163, R178) -/

/-- The six RX_DECODE operations with their codes and the operands of `arm` they stand for (R181 to R186). -/
def armings (expect : Byte) : List (Instr × Byte × Variant × Bool × Byte) :=
  [(Instr.rxDecodeSimple, 0x30#8, Variant.simple, false, 0x00#8),
   (.rxDecodeExt, 0x31#8, .extended, false, 0x00#8),
   (.rxDecodeTlm, 0x32#8, .telemetry, false, 0x00#8),
   (.rxDecodeSimpleExp expect, 0x34#8, .simple, true, expect),
   (.rxDecodeExtExp expect, 0x35#8, .extended, true, expect),
   (.rxDecodeTlmExp expect, 0x36#8, .telemetry, true, expect)]

/-- Each RX_DECODE has its code and is `arm` with its operands. -/
theorem exec_of_mem_armings {expect code id : Byte} {i : Instr} {v : Variant} {en : Bool}
    (h : (i, code, v, en, id) ∈ armings expect) :
    i.opCode.code = code ∧ (if en then id else 0x00#8) = id ∧ ∀ s, exec i s = .next (arm v en id s) := by
  simp only [armings, List.mem_cons, Prod.mk.injEq, List.not_mem_nil, or_false] at h
  obtain h | h | h | h | h | h := h <;> obtain ⟨rfl, rfl, rfl, rfl, rfl⟩ := h <;> exact ⟨rfl, rfl, fun _ => rfl⟩

/-- Settles O28: every RX_DECODE is `arm`, whose two cases are idle and armed. -/
theorem rxDecodeArmsAnIdleDecoder : Obligations.RxDecodeArmsAnIdleDecoder := by
  intro s expect i code v en id hmem
  obtain ⟨hcode, hid, hexec⟩ := exec_of_mem_armings hmem
  refine ⟨hcode, fun hidle => ?_, fun harmed => ?_⟩
  · rw [hexec, arm_idle hidle, hid]
    rfl
  · rw [hexec, arm_busy harmed]
    rfl

/-- Settles O29: as the armed case of O28. -/
theorem rxDecodeWhileArmedIsBusy : Obligations.RxDecodeWhileArmedIsBusy := by
  intro s expect i harmed hi
  obtain ⟨⟨_, code, v, en, id⟩, hmem, rfl⟩ : ∃ a ∈ armings expect, a.1 = i := List.mem_map.1 hi
  obtain ⟨-, -, hbusy⟩ := rxDecodeArmsAnIdleDecoder s expect _ code v en id hmem
  exact hbusy harmed

/-- R24's list holds each phase at its code. -/
theorem getElem?_phase_code (ph : RxPhase) :
    [RxPhase.idle, .start, .len1, .lenh, .lenl, .data, .crch, .crcl, .endByte][ph.code.toNat]? = some ph := by
  cases ph <;> rfl

/-- R201's list holds each result at its code. -/
theorem getElem?_result_code (r : RxResult) :
    [RxResult.none, .pending, .frame, .noData, .badStart, .truncated, .badEnd, .emptyBody, .badCrc, .unexpectedId,
      .linkError][r.code.toNat]? = some r := by
  cases r <;> rfl

theorem exec_rxStatus (s : State) :
    exec .rxStatus s = .next (s.respond (.report s.rxPhase.code s.rxResult.code s.rxFrame)) := rfl

/-- Settles O30: the report's codes are the positions in the lists of R24 and R201. -/
theorem rxStatusReportsTheDecoder : Obligations.RxStatusReportsTheDecoder :=
  ⟨rfl, fun s => ⟨_, _, exec_rxStatus s, getElem?_phase_code _, getElem?_result_code _⟩⟩

/-! ### The decoder's step, phase by phase (R165, R168 to R173) -/

/-- Settles O33. -/
theorem closedLinkFinishesTheDecode : Obligations.ClosedLinkFinishesTheDecode := by
  intro s harmed hclosed
  rw [decoderStep_closed harmed hclosed, finish_eq_finished (by decide)]
  rfl

theorem zext16_eq_ofNat (b : Byte) : zext16 b = BitVec.ofNat 16 b.toNat := BitVec.eq_of_toNat_eq (by simp [zext16])

theorem afterLength_zext16 (b : Byte) : afterLength (zext16 b) = if b.toNat = 0 then .crch else .data := by
  simp only [afterLength, zext16_eq_zero_iff]

theorem afterLength_assemble (hi lo : Byte) :
    afterLength (assemble hi lo) = if hi.toNat * 256 + lo.toNat = 0 then .crch else .data := by
  simp only [afterLength, assemble_eq_zero_iff]

section Take

variable {s : State} {b : Byte} {q : List Byte} (hl : s.linkOpen = true)
include hl

theorem decoderStep_start_short (hp : s.rxPhase = .start) (hv : s.rxVariant ≠ .telemetry)
    (hq : s.rxQueue = 0x02#8 :: q) : decoderStep s = .next { s with rxQueue := q, rxPhase := .len1 } := by
  rw [decoderStep_take (by simp [hp]) hl hq]
  cases hs : s.rxVariant
  case telemetry => exact absurd hs hv
  all_goals simp [onByte, onStart, hp, startByte]

theorem decoderStep_start_long (hp : s.rxPhase = .start) (hv : s.rxVariant = .extended)
    (hq : s.rxQueue = 0x03#8 :: q) : decoderStep s = .next { s with rxQueue := q, rxPhase := .lenh } := by
  rw [decoderStep_take (by simp [hp]) hl hq]
  simp [onByte, onStart, hp, hv, startByte, longHeader]

variable (hq : s.rxQueue = b :: q)
include hq

theorem decoderStep_start_telemetry (hp : s.rxPhase = .start) (hv : s.rxVariant = .telemetry) :
    decoderStep s = .next { s with rxQueue := q, rxId := b, rxPhase := .lenh } := by
  rw [decoderStep_take (by simp [hp]) hl hq]
  simp [onByte, onStart, hp, hv]

theorem decoderStep_start_bad (hp : s.rxPhase = .start)
    (hbad : s.rxVariant = .simple ∧ b ≠ 0x02#8 ∨ s.rxVariant = .extended ∧ b ≠ 0x02#8 ∧ b ≠ 0x03#8) :
    decoderStep s = .next (finished .badStart Frame.cleared { s with rxQueue := q }) := by
  rw [decoderStep_take (by simp [hp]) hl hq, ← finish_eq_finished (by decide)]
  obtain ⟨hv, h2⟩ | ⟨hv, h2, h3⟩ := hbad
  · simp [onByte, onStart, hp, hv, startByte, h2]
  · simp [onByte, onStart, hp, hv, startByte, longHeader, h2, h3]

theorem decoderStep_len1 (hp : s.rxPhase = .len1) :
    decoderStep s = .next
      { s with rxQueue := q, rxLenbytes := [b], rxLen := zext16 b, rxPhase := afterLength (zext16 b) } := by
  rw [decoderStep_take (by simp [hp]) hl hq]
  simp [onByte, onLen1, hp]

theorem decoderStep_lenh (hp : s.rxPhase = .lenh) :
    decoderStep s = .next { s with rxQueue := q, rxLenbytes := [b], rxPhase := .lenl } := by
  rw [decoderStep_take (by simp [hp]) hl hq]
  simp [onByte, onLenh, hp]

theorem decoderStep_lenl (hp : s.rxPhase = .lenl) {hi : Byte} {tail : List Byte}
    (hlen : s.rxLenbytes ++ [b] = hi :: tail) :
    decoderStep s = .next { s with
      rxQueue := q, rxLenbytes := hi :: tail, rxLen := assemble hi b, rxPhase := afterLength (assemble hi b) } := by
  rw [decoderStep_take (by simp [hp]) hl hq]
  simp [onByte, onLenl, hp, hlen]

theorem decoderStep_data (hp : s.rxPhase = .data) :
    decoderStep s = .next { s with
      rxQueue := q, rxData := s.rxData ++ [b],
      rxPhase := if s.rxData.length + 1 = s.rxLen.toNat then .crch else .data } := by
  rw [decoderStep_take (by simp [hp]) hl hq]
  simp [onByte, onData, hp]

theorem decoderStep_crch (hp : s.rxPhase = .crch) :
    decoderStep s = .next { s with rxQueue := q, rxCrc := inHighByte b, rxPhase := .crcl } := by
  rw [decoderStep_take (by simp [hp]) hl hq]
  simp [onByte, onCrch, hp]

theorem decoderStep_crcl (hp : s.rxPhase = .crcl) (hv : s.rxVariant ≠ .telemetry) :
    decoderStep s = .next { s with rxQueue := q, rxCrc := s.rxCrc ||| zext16 b, rxPhase := .endByte } := by
  rw [decoderStep_take (by simp [hp]) hl hq]
  cases hs : s.rxVariant
  case telemetry => exact absurd hs hv
  all_goals simp [onByte, onCrcl, hp]

end Take

/-- Settles O36: the rows of R168's table. -/
theorem leadingByteSelectsThePhase : Obligations.LeadingByteSelectsThePhase := by
  intro s b q hp hl hq
  refine ⟨?_, ?_, ?_, decoderStep_start_telemetry hl hq hp, decoderStep_start_bad hl hq hp⟩
  · rintro hv rfl
    exact decoderStep_start_short hl hp (by simp [hv]) hq
  · rintro hv rfl
    exact decoderStep_start_short hl hp (by simp [hv]) hq
  · rintro hv rfl
    exact decoderStep_start_long hl hp hv hq

/-- Settles O37: a declared length of 0 is a field of zero bytes. -/
theorem lengthBytesAreTaken : Obligations.LengthBytesAreTaken := by
  intro s b q hl hq
  refine ⟨fun hp => ?_, decoderStep_lenh hl hq, fun hp hi tail hlen => ?_⟩
  · rw [decoderStep_len1 hl hq hp, afterLength_zext16, zext16_eq_ofNat]
  · rw [decoderStep_lenl hl hq hp hlen, afterLength_assemble]
    rfl

/-- Settles O38: the invariant's DATA clause bounds the buffer. -/
theorem dataByteIsAppended : Obligations.DataByteIsAppended := by
  intro s b q hp hl hq
  refine ⟨decoderStep_data hl hq hp, fun hcons => ?_⟩
  obtain ⟨-, -, -, -, -, -, -, -, hphase⟩ := hcons
  obtain ⟨-, -, -, -, -, hdata, -⟩ := (phaseFields_iff s).1 hphase
  obtain ⟨-, hlt, -⟩ := hdata hp
  exact ⟨by omega, hlt⟩

/-! ### The judgement (R174, R204) -/

/-- A byte joins a CRC whose low byte is still clear by addition (R173, R75). -/
theorem or_zext16_eq_ofNat {w : Word} (b : Byte) (h : lowByte w = 0x00#8) :
    w ||| zext16 b = BitVec.ofNat 16 (w.toNat + b.toNat) := by
  have hdisjoint : w &&& zext16 b = 0#16 := by
    apply BitVec.eq_of_getLsbD_eq
    intro k hk
    have hlow := congrArg (·.getLsbD k) h
    simp only [lowByte, BitVec.getLsbD_extractLsb', Nat.zero_add, BitVec.getLsbD_zero] at hlow
    simp only [zext16, BitVec.getLsbD_and, BitVec.getLsbD_setWidth, BitVec.getLsbD_zero]
    by_cases h8 : k < 8
    · simp_all
    · simp [BitVec.getLsbD_of_ge b k (by omega)]
  rw [← BitVec.add_eq_or_of_and_eq_zero _ _ hdisjoint, zext16_eq_ofNat]
  simp [BitVec.ofNat_add]

section Verdict

variable {cov p : List Byte} {c : Byte} {s : State}

theorem verdict_badCrc (h : crc16 cov ≠ s.rxCrc) : verdict cov c p s = finished .badCrc Frame.cleared s := by
  rw [verdict_eq_finished, if_pos h]

theorem verdict_unexpectedId (h : crc16 cov = s.rxCrc) (hexp : s.rxExpEn = true) (hid : c ≠ s.rxExpId) :
    verdict cov c p s = finished .unexpectedId Frame.cleared s := by
  rw [verdict_eq_finished, if_neg (not_not.2 h), if_pos ⟨hexp, hid⟩]

theorem verdict_accepts (h : crc16 cov = s.rxCrc) (hid : s.rxExpEn = false ∨ c = s.rxExpId) :
    verdict cov c p s = finished .frame { commandId := c, payload := p, crc := s.rxCrc } s := by
  rw [verdict_eq_finished, if_neg (not_not.2 h), if_neg]
  rintro ⟨hexp, hne⟩
  obtain hoff | heq := hid
  · rw [hoff] at hexp; cases hexp
  · exact hne heq

end Verdict

/-- The checks of the CRC and the expected id, in their order. -/
theorem verdict_checks_in_order (cov p : List Byte) (c : Byte) (s : State) :
    ∃ r f, verdict cov c p s = finished r f s ∧ (r ≠ .frame → f = Frame.cleared) ∧
      (crc16 cov ≠ s.rxCrc → r = .badCrc) ∧
      (crc16 cov = s.rxCrc → s.rxExpEn = true → c ≠ s.rxExpId → r = .unexpectedId) ∧
      (crc16 cov = s.rxCrc → s.rxExpEn = false ∨ c = s.rxExpId →
        r = .frame ∧ f = { commandId := c, payload := p, crc := s.rxCrc }) := by
  by_cases hcrc : crc16 cov = s.rxCrc
  · by_cases hid : s.rxExpEn = false ∨ c = s.rxExpId
    · exact ⟨_, _, verdict_accepts hcrc hid, by simp, by simp [hcrc],
      fun _ hexp hne => absurd hid (by simp [hexp, hne]), by simp⟩
    · rw [not_or, Bool.not_eq_false] at hid
      exact ⟨_, _, verdict_unexpectedId hcrc hid.1 hid.2, by simp, by simp [hcrc], by simp, by simp [hid]⟩
  · exact ⟨_, _, verdict_badCrc hcrc, by simp, by simp, by simp [hcrc], by simp [hcrc]⟩

section LastByte

variable {s : State} {b : Byte} {q : List Byte} (hl : s.linkOpen = true) (hq : s.rxQueue = b :: q)
include hl hq

/-- TELEMETRY: the CRC's low byte is the last byte and the last two checks follow (R173, R174). -/
theorem decoderStep_crcl_telemetry (hp : s.rxPhase = .crcl) (hv : s.rxVariant = .telemetry) :
    decoderStep s = .next (verdict ([s.rxId] ++ s.rxLenbytes ++ s.rxData) s.rxId s.rxData
      { s with rxQueue := q, rxCrc := s.rxCrc ||| zext16 b }) := by
  rw [decoderStep_take (by simp [hp]) hl hq]
  simp [onByte, onCrcl, judge, coveredBytes, hp, hv]

variable (hp : s.rxPhase = .endByte) (hv : s.rxVariant ≠ .telemetry) (hfull : s.rxData.length = s.rxLen.toNat)
include hp hv hfull

/-- SIMPLE and EXTENDED: the END byte is taken, and the judgement of a full buffer follows (R173, R174). -/
theorem decoderStep_end :
    decoderStep s = .next (
      if b ≠ 0x03#8 then finished .badEnd Frame.cleared { s with rxQueue := q }
      else if s.rxLen = 0#16 then finished .emptyBody Frame.cleared { s with rxQueue := q }
      else verdict (coveredBytes s.rxVariant s.rxId s.rxLenbytes s.rxData) (s.rxData.headD 0) s.rxData.tail
        { s with rxQueue := q }) := by
  have hjudge : decoderStep s = judgeBody { s with rxQueue := q, rxEnd := b } := by
    rw [decoderStep_take (by simp [hp]) hl hq]
    cases hs : s.rxVariant
    case telemetry => exact absurd hs hv
    all_goals simp [onByte, onEnd, judge, hp]
  rw [hjudge, judgeBody_of_full (s := { s with rxQueue := q, rxEnd := b }) hfull, verdict_eq_finished,
    verdict_eq_finished]
  rfl

end LastByte

/-- Settles O40: each check by its case; the buffer is full in the last phase, so a body has a first byte. -/
theorem judgementChecksInOrder : Obligations.JudgementChecksInOrder := by
  refine ⟨fun s b q hcons hp hl hq => ?_, fun s b q hcons hp hv hl hq => ?_⟩
  all_goals
    obtain ⟨-, -, -, -, -, -, -, -, hphase⟩ := hcons
    obtain ⟨-, -, -, -, -, -, -, hcrcl, hend⟩ := (phaseFields_iff s).1 hphase
  · obtain ⟨-, hfull, hv⟩ := hend hp
    rw [decoderStep_end hl hq hp hv hfull]
    by_cases hb : b = 0x03#8
    · by_cases hlen : s.rxLen = 0#16
      · exact ⟨_, _, by rw [if_neg (not_not.2 hb), if_pos hlen], by simp [Frame.cleared], by simp [hb], by simp,
          by simp [hlen]⟩
      · obtain ⟨c, p, hdata⟩ : ∃ c p, s.rxData = c :: p := List.exists_cons_of_length_pos (by bv_omega)
        obtain ⟨r, f, hverdict, hf, hchecks⟩ := verdict_checks_in_order
          (coveredBytes s.rxVariant s.rxId s.rxLenbytes s.rxData) p c { s with rxQueue := q }
        refine ⟨r, f, ?_, hf, by simp [hb], by simp [hlen], fun _ _ => ⟨c, p, _, hdata, ?_, ?_, hchecks⟩⟩
        · rw [if_neg (not_not.2 hb), if_neg hlen, ← hverdict, hdata]
          rfl
        · intro h; rw [h]; rfl
        · intro h; rw [h]; rfl
    · exact ⟨_, _, by rw [if_pos hb], by simp [Frame.cleared], by simp, by simp [hb], by simp [hb]⟩
  · obtain ⟨-, -, hlow⟩ := hcrcl hp
    rw [decoderStep_crcl_telemetry hl hq hp hv, or_zext16_eq_ofNat b hlow]
    obtain ⟨r, f, hverdict, hf, hchecks⟩ := verdict_checks_in_order ([s.rxId] ++ s.rxLenbytes ++ s.rxData) s.rxData
      s.rxId { s with rxQueue := q, rxCrc := BitVec.ofNat 16 (s.rxCrc.toNat + b.toNat) }
    refine ⟨r, f, by rw [hverdict]; rfl, hf, ?_⟩
    rintro cov crc rfl rfl
    exact hchecks

/-! ### What a decode reads and writes (R190) -/

/-- The decoder, the queue and the link of `s` in surroundings taken from `u`. -/
def amid (u s : State) : State :=
  { s with
    crcAcc := u.crcAcc, crcBit := u.crcBit, txLine := u.txLine, writeDraw := u.writeDraw,
    schedule := u.schedule, responses := u.responses }

theorem sameDecoder_amid (u s : State) : SameDecoder s (amid u s) := by simp [SameDecoder, amid]

theorem sameElsewhere_amid (u s : State) : SameElsewhere u (amid u s) := by simp [SameElsewhere, amid]

theorem amid_eq_of_sameDecoder {s u : State} (h : SameDecoder s u) : amid u s = u := by
  cases u
  obtain ⟨rfl, rfl, rfl, rfl, rfl, rfl, rfl, rfl, rfl, rfl, rfl, rfl, rfl, rfl⟩ := h
  rfl

/-- An outcome in other surroundings. -/
def outcomeAmid (u : State) (o : Outcome) : Outcome := andThen o fun t => .next (amid u t)

section Amid

variable (u : State)

@[simp] theorem amid_rxPhase (s : State) : (amid u s).rxPhase = s.rxPhase := rfl
@[simp] theorem amid_rxVariant (s : State) : (amid u s).rxVariant = s.rxVariant := rfl
@[simp] theorem amid_rxLen (s : State) : (amid u s).rxLen = s.rxLen := rfl
@[simp] theorem amid_rxData (s : State) : (amid u s).rxData = s.rxData := rfl
@[simp] theorem amid_rxEnd (s : State) : (amid u s).rxEnd = s.rxEnd := rfl

theorem finish_amid (r : RxResult) (s : State) : finish r (amid u s) = amid u (finish r s) := rfl

theorem verdict_amid (cov p : List Byte) (c : Byte) (s : State) :
    verdict cov c p (amid u s) = amid u (verdict cov c p s) := by
  simp only [verdict, apply_ite (amid u)]
  rfl

theorem judgeBody_amid (s : State) : judgeBody (amid u s) = outcomeAmid u (judgeBody s) := by
  simp only [judgeBody, amid_rxEnd, amid_rxLen, amid_rxData, finish_amid, verdict_amid]
  split
  · rfl
  · split
    · rfl
    · split
      · rfl
      · split <;> rfl

theorem judge_amid (s : State) : judge (amid u s) = outcomeAmid u (judge s) := by
  simp only [judge, amid_rxVariant, judgeBody_amid, verdict_amid]
  split <;> rfl

theorem onStart_amid (b : Byte) (s : State) : onStart b (amid u s) = amid u (onStart b s) := by
  simp only [onStart, amid_rxVariant, finish_amid]
  split
  · split <;> rfl
  · split
    · rfl
    · split <;> rfl
  · rfl

theorem onByte_amid (b : Byte) (s : State) : onByte b (amid u s) = outcomeAmid u (onByte b s) := by
  simp only [onByte, amid_rxPhase, onStart_amid]
  split
  case h_8 =>
    simp only [onCrcl, amid_rxVariant]
    split
    · exact judge_amid u { s with rxCrc := s.rxCrc ||| zext16 b }
    · rfl
    · rfl
  case h_9 => exact judge_amid u { s with rxEnd := b }
  all_goals rfl

theorem decoderStep_amid (s : State) : decoderStep (amid u s) = outcomeAmid u (decoderStep s) := by
  by_cases hp : s.rxPhase = .idle
  · rw [decoderStep_idle hp, decoderStep_idle (s := amid u s) hp]
    rfl
  · cases hl : s.linkOpen
    · rw [decoderStep_closed hp hl, decoderStep_closed (s := amid u s) hp hl]
      rfl
    · rcases hq : s.rxQueue with _ | ⟨b, q⟩
      · rw [decoderStep_waiting hl hq, decoderStep_waiting (s := amid u s) hl hq]
        rfl
      · rw [decoderStep_take hp hl hq, decoderStep_take (s := amid u s) hp hl hq, ← onByte_amid]
        rfl

theorem timeoutStep_amid (s : State) : timeoutStep (amid u s) = amid u (timeoutStep s) := by
  simp only [timeoutStep, apply_ite (amid u)]
  rfl

end Amid

/-- Settles O43: a decoder step and a timeout do the same in any surroundings, and arming overwrites what an idle decoder
of the invariant has not cleared. -/
theorem decodeIsIndependentOfTheRest : Obligations.DecodeIsIndependentOfTheRest := by
  refine ⟨fun s u t hsu h => ?_, fun s u hsu => ?_, fun s u v en id hs hu hps hpu hlink hqueue => ?_⟩
  · obtain ⟨hframe, hlink, -⟩ := decoderStep_elsewhere h
    refine ⟨hframe, hlink, amid u t, ?_, sameDecoder_amid u t, sameElsewhere_amid u t⟩
    rw [← amid_eq_of_sameDecoder hsu, decoderStep_amid, h]
    rfl
  · obtain ⟨hframe, hlink, -⟩ := timeoutStep_elsewhere s
    refine ⟨hframe, hlink, ?_⟩
    rw [← amid_eq_of_sameDecoder hsu, timeoutStep_amid]
    exact sameDecoder_amid u _
  · obtain ⟨-, hends, -, -, -, -, -, -, hphases⟩ := hs
    obtain ⟨-, hendu, -, -, -, -, -, -, hphaseu⟩ := hu
    obtain ⟨hidles, -⟩ := (phaseFields_iff s).1 hphases
    obtain ⟨hidleu, -⟩ := (phaseFields_iff u).1 hphaseu
    obtain ⟨hids, hlbs, hlens, hdatas, hcrcs⟩ := hidles hps
    obtain ⟨hidu, hlbu, hlenu, hdatau, hcrcu⟩ := hidleu hpu
    rw [arm_idle hps, arm_idle hpu]
    simp [SameDecoder, *]

/-! ### Runs of the decoder alone -/

/-- With nothing scheduled a run begins with the decoder's step. -/
theorem run_succ_of_decoderStep {n : Nat} {s t : State} (hs : s.schedule = []) (h : decoderStep s = .next t) :
    run (n + 1) s = run n t := by
  rw [run_succ, step_unscheduled hs, h, andThen_next]

/-- A run of the decoder alone schedules nothing and takes at most one byte a step. -/
theorem run_rxQueue_length {n : Nat} {s t : State} (hs : s.schedule = []) (h : run n s = .next t) :
    s.rxQueue.length ≤ t.rxQueue.length + n := by
  induction n generalizing s with
  | zero => cases h; exact Nat.le_refl _
  | succ n ih =>
    rw [run_succ, step_unscheduled hs] at h
    obtain ⟨u, hstep, hrun⟩ := andThen_eq_next h
    obtain ⟨⟨-, -, -, -, hsched, -⟩, -, hqueue⟩ := decoderStep_elsewhere hstep
    have hrest := ih (hsched.symm.trans hs) hrun
    obtain hsame | ⟨b, htake⟩ := hqueue
    · rw [hsame] at hrest; omega
    · rw [htake, List.length_cons]; omega

/-- A run of the decoder alone that is no longer than its queue waits at no point. -/
theorem run_not_waiting {n m : Nat} {s t : State} (hs : s.schedule = []) (h : run n s = .next t)
    (hn : n ≤ s.rxQueue.length) (hm : m < n) : ∃ u, run m s = .next u ∧ u.waiting = false := by
  rw [← Nat.add_sub_cancel' (Nat.le_of_lt hm), run_add] at h
  obtain ⟨u, hrun, -⟩ := andThen_eq_next h
  refine ⟨u, hrun, ?_⟩
  rw [Bool.eq_false_iff, ne_eq, waiting_iff]
  rintro ⟨-, -, hempty⟩
  have hlen := run_rxQueue_length hs hrun
  rw [hempty, List.length_nil] at hlen
  omega

/-! ### A frame's parts: length field, data, CRC and END (R168 to R173) -/

section Parts

variable {s : State} {q : List Byte} (hs : s.schedule = []) (hl : s.linkOpen = true)
include hs hl

theorem run_short_header {len : Byte} (hp : s.rxPhase = .start) (hv : s.rxVariant ≠ .telemetry)
    (hq : s.rxQueue = 0x02#8 :: len :: q) :
    run 2 s = .next
      { s with rxQueue := q, rxLenbytes := [len], rxLen := zext16 len, rxPhase := afterLength (zext16 len) } :=
  Eq.trans (run_succ_of_decoderStep hs (decoderStep_start_short hl hp hv hq)) <|
    run_succ_of_decoderStep hs (decoderStep_len1 hl rfl rfl)

/-- Phases LENH and LENL, from an empty length field. -/
theorem run_long_length {hi lo : Byte} (hp : s.rxPhase = .lenh) (hq : s.rxQueue = hi :: lo :: q) :
    run 2 s = .next { s with
      rxQueue := q, rxLenbytes := [hi, lo], rxLen := assemble hi lo, rxPhase := afterLength (assemble hi lo) } :=
  Eq.trans (run_succ_of_decoderStep hs (decoderStep_lenh hl hq hp)) <|
    run_succ_of_decoderStep (by exact hs) (decoderStep_lenl (by exact hl) rfl rfl rfl)

/-- Phase DATA takes the bytes that are left of the declared length. -/
theorem run_data {d : List Byte} (hp : s.rxPhase = .data) (hd : d ≠ [])
    (hlen : s.rxData.length + d.length = s.rxLen.toNat) (hq : s.rxQueue = d ++ q) :
    run d.length s = .next { s with rxQueue := q, rxData := s.rxData ++ d, rxPhase := .crch } := by
  induction d generalizing s with
  | nil => exact absurd rfl hd
  | cons b d ih =>
    rw [List.length_cons, run_succ_of_decoderStep hs (decoderStep_data hl hq hp)]
    rw [List.length_cons, Nat.add_comm d.length, ← Nat.add_assoc] at hlen
    by_cases hlast : d = []
    · subst hlast
      rw [if_pos (show s.rxData.length + 1 = s.rxLen.toNat from hlen)]
      rfl
    · have := List.length_pos_of_ne_nil hlast
      rw [if_neg (by omega), ih (by exact hs) (by exact hl) rfl hlast (by simp; omega) rfl]
      simp

/-- From the length field on, a body of the declared length, an empty one included, is taken to phase CRCH. -/
theorem run_body {d : List Byte} (hp : s.rxPhase = afterLength s.rxLen) (hdata : s.rxData = [])
    (hlen : d.length = s.rxLen.toNat) (hq : s.rxQueue = d ++ q) :
    run d.length s = .next { s with rxQueue := q, rxData := d, rxPhase := .crch } := by
  unfold afterLength at hp
  split at hp
  next h0 =>
    rw [h0, BitVec.toNat_zero, List.length_eq_zero_iff] at hlen
    subst hlen
    rw [List.length_nil, run_zero, ← hp, ← hdata, ← List.nil_append q, ← hq]
  next h0 =>
    have hne : d ≠ [] := by
      rintro rfl
      exact h0 (BitVec.eq_of_toNat_eq hlen.symm)
    rw [run_data hs hl hp hne (by rw [hdata, ← hlen, List.length_nil, Nat.zero_add]) hq, hdata, List.nil_append]

end Parts

/-- The two CRC bytes give the word they were made of (R52, R173). -/
theorem inHighByte_or_zext16 (w : Word) : inHighByte (highByte w) ||| zext16 (lowByte w) = w := by
  have := w.isLt
  rw [or_zext16_eq_ofNat _ (lowByte_inHighByte _), inHighByte_eq_ofNat, BitVec.toNat_ofNat]
  apply BitVec.eq_of_toNat_eq
  have := highByte_lowByte_toNat w
  rw [BitVec.toNat_ofNat]
  omega

/-- The verdict depends on the covered bytes, the CRC and the expected id; what else was taken is cleared. -/
theorem verdict_congr {cov p : List Byte} {c : Byte} {s t : State} (hcrc : s.rxCrc = t.rxCrc)
    (h : ∀ r f, finished r f s = finished r f t) : verdict cov c p s = verdict cov c p t := by
  have hexp := congrArg State.rxExpEn (h .none Frame.cleared)
  have hid := congrArg State.rxExpId (h .none Frame.cleared)
  simp only [finished] at hexp hid
  rw [verdict_eq_finished, verdict_eq_finished, hcrc, hexp, hid, h, h, h]

section Tails

variable {s : State} {q : List Byte} (hs : s.schedule = []) (hl : s.linkOpen = true)
  (hp : s.rxPhase = afterLength s.rxLen) (hdata : s.rxData = [])
include hs hl hp hdata

/-- SIMPLE and EXTENDED from the length field on: the body, the CRC and END, and then the last two checks. -/
theorem run_delimited_tail {c : Byte} {p : List Byte} {crc : Word} (hv : s.rxVariant ≠ .telemetry)
    (hlen : p.length + 1 = s.rxLen.toNat) (hq : s.rxQueue = c :: p ++ (be16 crc ++ 0x03#8 :: q)) :
    run (p.length + 4) s = .next (verdict (coveredBytes s.rxVariant s.rxId s.rxLenbytes (c :: p)) c p
      { s with rxQueue := q, rxCrc := crc }) := by
  have hne : s.rxLen ≠ 0#16 := fun h0 => by rw [h0] at hlen; cases hlen
  refine Eq.trans (Crc.run_add_of_eq_next (a := p.length + 1) 3 (run_body (d := c :: p) hs hl hp hdata hlen hq)) ?_
  refine Eq.trans (run_succ_of_decoderStep hs (decoderStep_crch hl rfl rfl)) ?_
  refine Eq.trans (run_succ_of_decoderStep hs (decoderStep_crcl hl rfl rfl hv)) ?_
  refine Eq.trans (run_succ_of_decoderStep hs (decoderStep_end hl rfl rfl hv hlen)) ?_
  rw [run_zero]
  simp only [inHighByte_or_zext16, hne, ne_eq, not_true_eq_false, if_false, List.headD_cons, List.tail_cons]
  exact congrArg _ (verdict_congr rfl fun _ _ => rfl)

/-- TELEMETRY from the length field on: the payload and the CRC, and then the last two checks. -/
theorem run_telemetry_tail {p : List Byte} {crc : Word} (hv : s.rxVariant = .telemetry)
    (hlen : p.length = s.rxLen.toNat) (hq : s.rxQueue = p ++ (be16 crc ++ q)) :
    run (p.length + 2) s = .next (verdict ([s.rxId] ++ s.rxLenbytes ++ p) s.rxId p
      { s with rxQueue := q, rxCrc := crc }) := by
  refine Eq.trans (Crc.run_add_of_eq_next 2 (run_body hs hl hp hdata hlen hq)) ?_
  refine Eq.trans (run_succ_of_decoderStep hs (decoderStep_crch hl rfl rfl)) ?_
  refine Eq.trans (run_succ_of_decoderStep hs (decoderStep_crcl_telemetry hl rfl rfl hv)) ?_
  rw [run_zero]
  simp only [inHighByte_or_zext16]
  exact congrArg _ (verdict_congr rfl fun _ _ => rfl)

end Tails

/-! ### Whole decodes (R187 to R189) -/

/-- Armed and about to take the first byte of an open link, with nothing else scheduled. -/
structure Ready (s : State) : Prop where
  schedule : s.schedule = []
  linkOpen : s.linkOpen = true
  start : s.rxPhase = .start
  consistent : Consistent s

/-- What the partial-frame fields hold before the first byte (R33). -/
theorem Ready.fields {s : State} (h : Ready s) :
    s.rxId = 0x00#8 ∧ s.rxLenbytes = [] ∧ s.rxLen = 0#16 ∧ s.rxData = [] ∧ s.rxCrc = 0x0000#16 ∧ s.rxEnd = 0x00#8 := by
  obtain ⟨-, hend, -, -, -, -, -, -, hphase⟩ := h.consistent
  obtain ⟨-, hstart, -⟩ := (phaseFields_iff s).1 hphase
  obtain ⟨hid, hlb, hlen, hdata, hcrc⟩ := hstart h.start
  exact ⟨hid, hlb, hlen, hdata, hcrc, hend⟩

/-- A decode finished in one go from its start has written the phase, the result, the frame and the queue only. -/
theorem Ready.finished_eq {s : State} (h : Ready s) (r : RxResult) (f : Frame) (q : List Byte) (crc : Word) :
    finished r f { s with rxQueue := q, rxCrc := crc } =
      { s with rxPhase := .idle, rxResult := r, rxQueue := q, rxFrame := f } := by
  obtain ⟨hid, hlb, hlen, hdata, hcrc, hend⟩ := h.fields
  simp only [finished, hid, hlb, hlen, hdata, hcrc, hend]

section WholeFrames

variable {s : State} {c : Byte} {p rest : List Byte} {crc : Word} (h : Ready s)
include h

theorem run_short_frame {len : Byte} (hv : s.rxVariant ≠ .telemetry) (hlen : len.toNat = p.length + 1)
    (hq : s.rxQueue = 0x02#8 :: len :: (c :: p ++ (be16 crc ++ 0x03#8 :: rest))) :
    run (p.length + 6) s = .next (verdict (coveredBytes s.rxVariant 0x00#8 [len] (c :: p)) c p
      { s with rxQueue := rest, rxCrc := crc }) := by
  obtain ⟨hid, -, -, hdata, -, -⟩ := h.fields
  have hlen' : p.length + 1 = (zext16 len).toNat := by rw [zext16_toNat, hlen]
  rw [show p.length + 6 = 2 + (p.length + 4) by omega, ← hid]
  refine Eq.trans (Crc.run_add_of_eq_next _ (run_short_header h.schedule h.linkOpen h.start hv hq)) ?_
  refine Eq.trans (run_delimited_tail (by exact h.schedule) (by exact h.linkOpen) rfl (by exact hdata) (by exact hv)
    (by exact hlen') rfl) ?_
  exact congrArg _ (verdict_congr rfl fun _ _ => rfl)

theorem run_long_frame {hi lo : Byte} (hv : s.rxVariant = .extended)
    (hlen : hi.toNat * 256 + lo.toNat = p.length + 1)
    (hq : s.rxQueue = 0x03#8 :: hi :: lo :: (c :: p ++ (be16 crc ++ 0x03#8 :: rest))) :
    run (p.length + 7) s = .next (verdict (c :: p) c p { s with rxQueue := rest, rxCrc := crc }) := by
  obtain ⟨-, -, -, hdata, -, -⟩ := h.fields
  have hcov : coveredBytes s.rxVariant s.rxId [hi, lo] (c :: p) = c :: p := by rw [hv]; rfl
  have hlen' : p.length + 1 = (assemble hi lo).toNat := by rw [assemble_toNat, hlen]
  rw [show p.length + 7 = 2 + (p.length + 4) + 1 by omega, ← hcov]
  refine Eq.trans (run_succ_of_decoderStep h.schedule (decoderStep_start_long h.linkOpen h.start hv hq)) ?_
  refine Eq.trans (Crc.run_add_of_eq_next _ (run_long_length (by exact h.schedule) (by exact h.linkOpen) rfl rfl)) ?_
  refine Eq.trans (run_delimited_tail (by exact h.schedule) (by exact h.linkOpen) rfl (by exact hdata) (by simp [hv])
    (by exact hlen') rfl) ?_
  exact congrArg _ (verdict_congr rfl fun _ _ => rfl)

theorem run_telemetry_frame {hi lo : Byte} (hv : s.rxVariant = .telemetry)
    (hlen : hi.toNat * 256 + lo.toNat = p.length) (hq : s.rxQueue = c :: hi :: lo :: (p ++ (be16 crc ++ rest))) :
    run (p.length + 5) s = .next (verdict (c :: hi :: lo :: p) c p { s with rxQueue := rest, rxCrc := crc }) := by
  obtain ⟨-, -, -, hdata, -, -⟩ := h.fields
  have hlen' : p.length = (assemble hi lo).toNat := by rw [assemble_toNat, hlen]
  rw [show p.length + 5 = 2 + (p.length + 2) + 1 by omega]
  refine Eq.trans (run_succ_of_decoderStep h.schedule (decoderStep_start_telemetry h.linkOpen hq h.start hv)) ?_
  refine Eq.trans (Crc.run_add_of_eq_next _ (run_long_length (by exact h.schedule) (by exact h.linkOpen) rfl rfl)) ?_
  refine Eq.trans (run_telemetry_tail (by exact h.schedule) (by exact h.linkOpen) rfl (by exact hdata) (by exact hv)
    (by exact hlen') rfl) ?_
  exact congrArg _ (verdict_congr rfl fun _ _ => rfl)

end WholeFrames

/-- The byte sequences that a decoder of a variant takes as one frame, up to the CRC and the expected id: the sequence,
its covered bytes, id, payload and CRC (R71 to R74, R76).  The header is not held to the encoder's choice. -/
inductive OnWire : Variant → List Byte → List Byte → Byte → List Byte → Word → Prop
  /-- SIMPLE, and EXTENDED with the short header. -/
  | short {v : Variant} {len c : Byte} {p : List Byte} {crc : Word} (hv : v ≠ .telemetry)
      (hlen : len.toNat = p.length + 1) :
      OnWire v (0x02#8 :: len :: (c :: (p ++ be16 crc) ++ [0x03#8])) (coveredBytes v 0x00#8 [len] (c :: p)) c p crc
  /-- EXTENDED with the long header. -/
  | long {hi lo c : Byte} {p : List Byte} {crc : Word} (hlen : hi.toNat * 256 + lo.toNat = p.length + 1) :
      OnWire .extended (0x03#8 :: hi :: lo :: (c :: (p ++ be16 crc) ++ [0x03#8])) (c :: p) c p crc
  | telemetry {hi lo c : Byte} {p : List Byte} {crc : Word} (hlen : hi.toNat * 256 + lo.toNat = p.length) :
      OnWire .telemetry (c :: hi :: lo :: (p ++ be16 crc)) (c :: hi :: lo :: p) c p crc

/-- A sequence on the wire is taken whole, and the last two checks decide. -/
theorem run_onWire {s : State} {v : Variant} {w cov p rest : List Byte} {c : Byte} {crc : Word} (h : Ready s)
    (hv : s.rxVariant = v) (hw : OnWire v w cov c p crc) (hq : s.rxQueue = w ++ rest) :
    run w.length s = .next (verdict cov c p { s with rxQueue := rest, rxCrc := crc }) := by
  cases hw with
  | short hne hlen =>
    subst hv
    simpa using run_short_frame h hne hlen (by simpa using hq)
  | long hlen => simpa using run_long_frame h hv hlen (by simpa using hq)
  | telemetry hlen => simpa using run_telemetry_frame h hv hlen (by simpa using hq)

section OnWire

variable {s : State} {w cov p rest : List Byte} {c : Byte} {crc : Word}

theorem run_onWire_accepts (h : Ready s) (hw : OnWire s.rxVariant w cov c p crc) (hq : s.rxQueue = w ++ rest)
    (hcrc : crc16 cov = crc) (hid : s.rxExpEn = false ∨ c = s.rxExpId) :
    run w.length s = .next { s with
      rxPhase := .idle, rxResult := .frame, rxQueue := rest,
      rxFrame := { commandId := c, payload := p, crc := crc } } := by
  rw [run_onWire h rfl hw hq, verdict_accepts (by exact hcrc) (by exact hid), h.finished_eq]

theorem run_onWire_badCrc (h : Ready s) (hw : OnWire s.rxVariant w cov c p crc) (hq : s.rxQueue = w ++ rest)
    (hcrc : crc16 cov ≠ crc) :
    run w.length s = .next
      { s with rxPhase := .idle, rxResult := .badCrc, rxQueue := rest, rxFrame := Frame.cleared } := by
  rw [run_onWire h rfl hw hq, verdict_badCrc (by exact hcrc), h.finished_eq]

end OnWire

section Frames

variable {v : Variant} {c : Byte} {p f : List Byte}

theorem lengthByte_toNat {n : Nat} (h : n ≤ 254) : (BitVec.ofNat 8 (n + 1)).toNat = n + 1 :=
  Nat.mod_eq_of_lt (by omega)

/-- A SIMPLE frame in front of a SIMPLE or an EXTENDED decoder. -/
theorem onWire_of_frameSimple (hv : v ≠ .telemetry) (h : frameSimple c p = some f) :
    OnWire v f (coveredBytes v 0x00#8 [BitVec.ofNat 8 (p.length + 1)] (c :: p)) c p
      (crc16 (BitVec.ofNat 8 (p.length + 1) :: c :: p)) := by
  have hp : p.length ≤ 254 := length_le_of_frameOf (v := .simple) h
  cases (Encoding.frameSimple_eq_head_payload_trailer hp).symm.trans h
  simpa using OnWire.short hv (lengthByte_toNat hp)

/-- An EXTENDED short-header frame in front of a SIMPLE or an EXTENDED decoder. -/
theorem onWire_of_frameExt_short (hv : v ≠ .telemetry) (hp : p.length ≤ 254) (h : frameExt c p = some f) :
    OnWire v f (coveredBytes v 0x00#8 [BitVec.ofNat 8 (p.length + 1)] (c :: p)) c p (crc16 (c :: p)) := by
  cases (frameExt_of_le (by omega)).symm.trans h
  rw [extHeader_of_le (by omega)]
  simpa using OnWire.short hv (lengthByte_toNat hp)

theorem onWire_of_frameExt_long (hp : 254 < p.length) (h : frameExt c p = some f) :
    OnWire .extended f (c :: p) c p (crc16 (c :: p)) := by
  have hmax : p.length ≤ 65534 := length_le_of_frameOf (v := .extended) h
  cases (frameExt_of_le hmax).symm.trans h
  rw [extHeader_of_gt (by omega)]
  simpa using OnWire.long (Encoding.lengthBytes_toNat (n := p.length + 1) (by omega))

theorem onWire_of_frameTlm (h : frameTlm c p = some f) :
    OnWire .telemetry f (coveredOf .telemetry c p) c p (crc16 (coveredOf .telemetry c p)) := by
  have hmax : p.length ≤ 65535 := length_le_of_frameOf (v := .telemetry) h
  cases (Encoding.frameTlm_eq_head_payload_trailer hmax).symm.trans h
  exact OnWire.telemetry (Encoding.lengthBytes_toNat hmax)

/-- Every frame of the encoder, in front of a decoder of its variant, carries the CRC of its covered bytes. -/
theorem onWire_of_frameOf (h : frameOf v c p = some f) :
    OnWire v f (coveredOf v c p) c p (crc16 (coveredOf v c p)) := by
  cases v with
  | simple => exact onWire_of_frameSimple (by decide) h
  | extended =>
    rcases Nat.lt_or_ge 254 p.length with hp | hp
    · exact onWire_of_frameExt_long hp h
    · exact onWire_of_frameExt_short (by decide) hp h
  | telemetry => exact onWire_of_frameTlm h

end Frames

/-- Settles O46: the encoder's frame is on the wire with its own CRC, so the last two checks accept it. -/
theorem everyEncodedFrameDecodes : Obligations.EveryEncodedFrameDecodes := by
  intro v c p f rest s hf hcons hs hl hp hv hid hq
  subst hv
  have hrun := run_onWire_accepts ⟨hs, hl, hp, hcons⟩ (onWire_of_frameOf hf) hq rfl (hid.imp_right Eq.symm)
  exact ⟨hrun, fun m hm => run_not_waiting hs hrun (by simp [hq]) hm⟩

/-- Settles O48: one of the two CRCs covers the length byte besides, which is not zero. -/
theorem simpleExtConfusionIsRejected : Obligations.SimpleExtConfusionIsRejected := by
  intro c p f rest s hcons hs hl hp hq
  have hready : Ready s := ⟨hs, hl, hp, hcons⟩
  refine ⟨fun hf hv => ?_, fun hf hshort hv => ?_, fun hf hlong hv => ?_⟩
  · have hp : p.length ≤ 254 := length_le_of_frameOf (v := .simple) hf
    refine run_onWire_badCrc hready (onWire_of_frameSimple (by simp [hv]) hf) hq ?_
    rw [hv]
    exact (FramerTx.crc16_cons_ne (FramerTx.lengthByte_ne_zero hp) _).symm
  · refine run_onWire_badCrc hready (onWire_of_frameExt_short (by simp [hv]) hshort hf) hq ?_
    rw [hv]
    exact FramerTx.crc16_cons_ne (FramerTx.lengthByte_ne_zero hshort) _
  · cases (frameExt_of_le (length_le_of_frameOf (v := .extended) hf)).symm.trans hf
    rw [extHeader_of_gt (by omega)] at hq ⊢
    rw [run_succ_of_decoderStep hs (decoderStep_start_bad hl hq hp (.inl ⟨hv, by decide⟩)), run_zero]
    exact congrArg _ (hready.finished_eq _ _ _ s.rxCrc)

/-! ### One flipped bit (R188) -/

theorem flipBit_length (x : List Byte) (i j : Nat) : (flipBit x i j).length = x.length := List.length_modify ..

theorem flipBit_succ_cons (b : Byte) (x : List Byte) (i j : Nat) :
    flipBit (b :: x) (i + 1) j = b :: flipBit x i j := rfl

theorem flipBit_append_left {x : List Byte} {i : Nat} (y : List Byte) (j : Nat) (hi : i < x.length) :
    flipBit (x ++ y) i j = flipBit x i j ++ y := by
  induction x generalizing i with
  | nil => cases hi
  | cons b x ih =>
    cases i with
    | zero => rfl
    | succ i => simp only [List.cons_append, flipBit_succ_cons, ih (Nat.lt_of_succ_lt_succ hi)]

theorem xor_one_shiftLeft_ne {j : Nat} (hj : j < 8) (b : Byte) : b ^^^ (1#8 <<< j) ≠ b := by
  intro h
  have hbit := congrArg (·.getLsbD j) h
  simp [hj] at hbit

/-- The byte steps keep a flipped bit apart: no byte before it, at it or after it brings the accumulators together. -/
theorem foldl_byteStep_flipBit_ne {x : List Byte} {i j : Nat} (hi : i < x.length) (hj : j < 8) (a : Word) :
    (flipBit x i j).foldl byteStep a ≠ x.foldl byteStep a := by
  induction x generalizing i a with
  | nil => cases hi
  | cons b x ih =>
    cases i with
    | zero =>
      intro h
      exact xor_one_shiftLeft_ne hj b (byteStep_right_injective (foldl_byteStep_injective x h))
    | succ i => exact ih (Nat.lt_of_succ_lt_succ hi) _

/-- The residue law of R105, with its uniqueness. -/
theorem crc16_append_be16_eq_zero_iff (x : List Byte) (r : Word) :
    crc16 (x ++ be16 r) = 0x0000#16 ↔ crc16 x = r := by
  have happend : crc16 (x ++ be16 r) = (be16 r).foldl byteStep (crc16 x) := List.foldl_append
  have hown : (be16 r).foldl byteStep r = 0x0000#16 := byteStep_own_bytes r
  rw [happend, ← hown]
  exact ⟨foldl_byteStep_injective (be16 r), fun h => by rw [h]⟩

/-- One flipped bit among the covered bytes and the CRC: what is there then is no longer the CRC of what precedes it. -/
theorem crc16_ne_of_flipBit {x y : List Byte} {crc crc' : Word} {i j : Nat} (hcrc : crc16 x = crc)
    (hi : i < x.length + 2) (hj : j < 8) (h : flipBit (x ++ be16 crc) i j = y ++ be16 crc') : crc16 y ≠ crc' := by
  intro hy
  refine foldl_byteStep_flipBit_ne (x := x ++ be16 crc) (i := i) (by simpa using hi) hj crcInitial ?_
  rw [h]
  exact ((crc16_append_be16_eq_zero_iff y crc').2 hy).trans ((crc16_append_be16_eq_zero_iff x crc).2 hcrc).symm

theorem be16_assemble (hi lo : Byte) : be16 (assemble hi lo) = [hi, lo] := by
  have := hi.isLt
  have := lo.isLt
  have := highByte_lowByte_toNat (assemble hi lo)
  rw [assemble_toNat] at this
  simp only [be16, List.cons.injEq, and_true, BitVec.toNat_eq]
  omega

/-- Any two last bytes are a CRC field. -/
theorem exists_eq_append_be16 {x : List Byte} {n : Nat} (h : x.length = n + 2) :
    ∃ p crc, x = p ++ be16 crc ∧ p.length = n := by
  obtain ⟨hi, lo, htail⟩ := List.length_eq_two.1 (show (x.drop n).length = 2 by rw [List.length_drop]; omega)
  refine ⟨x.take n, assemble hi lo, ?_, by rw [List.length_take]; omega⟩
  rw [be16_assemble, ← htail, List.take_append_drop]

/-- Any three last bytes or more are an id, a payload and a CRC field. -/
theorem exists_eq_cons_append_be16 {x : List Byte} {n : Nat} (h : x.length = n + 3) :
    ∃ c p crc, x = c :: (p ++ be16 crc) ∧ p.length = n := by
  obtain ⟨d, crc, hx, hd⟩ := exists_eq_append_be16 (n := n + 1) h
  obtain ⟨c, p, rfl⟩ := List.exists_cons_of_length_eq_add_one hd
  exact ⟨c, p, crc, hx, Nat.succ.inj hd⟩

/-- A sequence on the wire whose CRC field is not the CRC of its covered bytes. -/
def WrongCrcOnWire (v : Variant) (w : List Byte) : Prop :=
  ∃ cov c p crc, OnWire v w cov c p crc ∧ crc16 cov ≠ crc

section Flip

variable {c : Byte} {p : List Byte} {crc : Word} {k j : Nat}

/-- A bit of an id, a payload and a CRC field, flipped: again an id, a payload of the same length and a CRC field. -/
theorem flipBit_body (crc : Word) (j : Nat) (hk : k < p.length + 3) :
    ∃ c' p' crc', p'.length = p.length ∧
      flipBit (c :: (p ++ be16 crc)) k j = c' :: (p' ++ be16 crc') ∧
      flipBit (c :: (p ++ be16 crc) ++ [0x03#8]) k j = c' :: (p' ++ be16 crc') ++ [0x03#8] := by
  obtain ⟨c', p', crc', hflip, hlen⟩ :=
    exists_eq_cons_append_be16 (x := flipBit (c :: (p ++ be16 crc)) k j) (n := p.length) (by simp [flipBit_length])
  exact ⟨c', p', crc', hlen, hflip, by rw [flipBit_append_left _ _ (by simp; omega), hflip]⟩

/-- A short-header sequence with its own CRC, flipped after the length byte. -/
theorem OnWire.short_wrongCrc_of_flipBit {v : Variant} {len : Byte} (hv : v ≠ .telemetry)
    (hlen : len.toNat = p.length + 1) (hcrc : crc16 (coveredBytes v 0x00#8 [len] (c :: p)) = crc)
    (hk : k < p.length + 3) (hj : j < 8) :
    WrongCrcOnWire v (flipBit (0x02#8 :: len :: (c :: (p ++ be16 crc) ++ [0x03#8])) (k + 2) j) := by
  obtain ⟨c', p', crc', hp, hbody, hall⟩ := flipBit_body (c := c) crc j hk
  rw [flipBit_succ_cons, flipBit_succ_cons, hall]
  refine ⟨_, c', p', crc', .short hv (by rw [hlen, hp]), ?_⟩
  cases v with
  | simple =>
    exact crc16_ne_of_flipBit (x := len :: c :: p) (i := k + 1) hcrc (by simp; omega) hj (congrArg (len :: ·) hbody)
  | extended => exact crc16_ne_of_flipBit (x := c :: p) (i := k) hcrc (by simp; omega) hj hbody
  | telemetry => exact absurd rfl hv

/-- A long-header sequence with its own CRC, flipped after the length bytes. -/
theorem OnWire.long_wrongCrc_of_flipBit {hi lo : Byte} (hlen : hi.toNat * 256 + lo.toNat = p.length + 1)
    (hcrc : crc16 (c :: p) = crc) (hk : k < p.length + 3) (hj : j < 8) :
    WrongCrcOnWire .extended
      (flipBit (0x03#8 :: hi :: lo :: (c :: (p ++ be16 crc) ++ [0x03#8])) (k + 3) j) := by
  obtain ⟨c', p', crc', hp, hbody, hall⟩ := flipBit_body (c := c) crc j hk
  rw [flipBit_succ_cons, flipBit_succ_cons, flipBit_succ_cons, hall]
  exact ⟨_, c', p', crc', .long (by rw [hlen, hp]), crc16_ne_of_flipBit (i := k) hcrc (by simp; omega) hj hbody⟩

/-- A TELEMETRY sequence with its own CRC, flipped in the id or after the length bytes. -/
theorem OnWire.telemetry_wrongCrc_of_flipBit {hi lo : Byte} {i : Nat} (hlen : hi.toNat * 256 + lo.toNat = p.length)
    (hcrc : crc16 (c :: hi :: lo :: p) = crc) (hi' : i = 0 ∨ 3 ≤ i ∧ i < p.length + 5) (hj : j < 8) :
    WrongCrcOnWire .telemetry (flipBit (c :: hi :: lo :: (p ++ be16 crc)) i j) := by
  obtain rfl | ⟨h3, hlt⟩ := hi'
  · exact ⟨_, _, p, crc, .telemetry hlen, crc16_ne_of_flipBit (i := 0) hcrc (by simp) hj rfl⟩
  · obtain ⟨k, rfl⟩ := Nat.exists_eq_add_of_le' h3
    obtain ⟨p', crc', hflip, hp⟩ :=
      exists_eq_append_be16 (x := flipBit (p ++ be16 crc) k j) (n := p.length) (by simp [flipBit_length])
    rw [flipBit_succ_cons, flipBit_succ_cons, flipBit_succ_cons, hflip]
    exact ⟨_, c, p', crc', .telemetry (by rw [hlen, hp]),
      crc16_ne_of_flipBit (i := k + 3) hcrc (by simp; omega) hj (congrArg (c :: hi :: lo :: ·) hflip)⟩

/-- A sequence on the wire with its own CRC and one protected bit flipped is again a sequence on the wire, with a CRC
that is not its own; an EXTENDED one has the header that the encoder chooses. -/
theorem OnWire.wrongCrc_of_flipBit {v : Variant} {w cov : List Byte} {i : Nat} (hw : OnWire v w cov c p crc)
    (hcrc : crc16 cov = crc) (hi : protectedByte v p i) (hj : j < 8)
    (hext : v = .extended → w.length = p.length + if p.length ≤ 254 then 6 else 7) :
    WrongCrcOnWire v (flipBit w i j) := by
  cases hw with
  | @short _ len _ _ _ hv hlen =>
    obtain ⟨k, rfl, hk⟩ : ∃ k, i = k + 2 ∧ k < p.length + 3 := by
      have hshort : p.length ≤ 254 := by have := len.isLt; omega
      refine ⟨i - 2, ?_⟩
      cases v with
      | telemetry => exact absurd rfl hv
      | simple => simp only [protectedByte] at hi; omega
      | extended => simp only [protectedByte, if_pos hshort] at hi; omega
    exact OnWire.short_wrongCrc_of_flipBit hv hlen hcrc hk hj
  | @long bh bl _ _ _ hlen =>
    have hlong : ¬ p.length ≤ 254 := by
      intro hshort
      have hlength := hext rfl
      simp [hshort] at hlength
    simp only [protectedByte, if_neg hlong] at hi
    obtain ⟨k, rfl⟩ := Nat.exists_eq_add_of_le' hi.1
    exact OnWire.long_wrongCrc_of_flipBit hlen hcrc (by omega) hj
  | telemetry hlen => exact OnWire.telemetry_wrongCrc_of_flipBit hlen hcrc hi hj

end Flip

/-- Settles O47: the flipped frame is on the wire with a CRC that is not its own. -/
theorem everyFlippedBitIsRejected : Obligations.EveryFlippedBitIsRejected := by
  intro v c p f rest s i j hf hi hj hcons hs hl hp hv hq
  subst hv
  obtain ⟨cov, c', p', crc, hw, hcrc⟩ := (onWire_of_frameOf hf).wrongCrc_of_flipBit rfl hi hj fun hv => by
    rw [hv] at hf
    exact FramerTx.frameExt_length hf
  rw [← flipBit_length f i j]
  exact run_onWire_badCrc ⟨hs, hl, hp, hcons⟩ hw hq hcrc

end Sys2Proof.Proofs.FramerRx

/-! PROOFS. The RESET input and the start state (family 70_reset_and_hazards). -/

namespace Sys2Proof.Proofs.Reset

open Sys2Proof Sys2Proof.Machine

/-- Where an event is scheduled, a step is its agent's, with that event gone from the schedule. -/
theorem step_of_schedule {ev : Event} {rest : List Event} {s : State} (h : s.schedule = ev :: rest) :
    step s = eventStep ev { s with schedule := rest } := by
  simp only [step, h]

/-- RESET gives the start state but for the environment's fields and the model's own (R230, R34 to R36, log 14). -/
theorem blockReset_eq_startState (s : State) :
    blockReset s = { State.reset with
      linkOpen := s.linkOpen, rxQueue := s.rxQueue, txLine := s.txLine,
      writeDraw := s.writeDraw, schedule := s.schedule, responses := s.responses } := rfl

/-- In the start state the block is already reset (R233). -/
theorem blockReset_startState : blockReset State.reset = State.reset := blockReset_eq_startState State.reset

/-- The start state's environment (R233). -/
theorem startState_environment :
    State.reset.linkOpen = false ∧ State.reset.rxQueue = [] ∧ State.reset.txLine = [] := ⟨rfl, rfl, rfl⟩

/-- Settles O52: the step is `blockReset`, which differs from the start state in the environment and the model's own
fields alone. -/
theorem resetInputResetsTheBlockOnly : Obligations.ResetInputResetsTheBlockOnly := by
  intro s rest hs
  calc step s = .next (blockReset { s with schedule := rest }) := step_of_schedule hs
    _ = _ := congrArg Host.Outcome.next (blockReset_eq_startState _)

/-- Settles O53: the start state is its own reset, so its block fields are those RESET gives. -/
theorem resetStateIsTheStartState : Obligations.ResetStateIsTheStartState := by
  unfold Obligations.ResetStateIsTheStartState
  rw [← blockReset_startState]
  simp [startState_environment, Variant.code, Frame.cleared]

end Sys2Proof.Proofs.Reset

/-! PROOFS. Requests, the CRC's laws, the invariant, and how decodes end (family other). -/

namespace Sys2Proof.Proofs.Other

open Sys2Proof Sys2Proof.Machine Sys2Proof.Safety

/-! ### Requests (R81 to R83) -/

/-- Settles O1: the decoder undoes the encoder, and no other request decodes to the operation. -/
theorem requestDecodesIffEncoded : Obligations.RequestDecodesIffEncoded := by
  intro request i
  exact ⟨Crc.eq_encode_of_decode_eq_ok, fun h => h ▸ Crc.decode_encode i⟩

theorem noOperand_isSome (i : Instr) (args : List Byte) : (noOperand i args).isSome = OperandShape.empty.fits args := by
  cases args <;> rfl

theorem byteOperand_isSome (mk : Byte → Instr) (args : List Byte) :
    (byteOperand mk args).isSome = OperandShape.byte.fits args := by
  rcases args with _ | ⟨b, _ | ⟨c, rest⟩⟩ <;> simp [byteOperand, OperandShape.fits]

theorem payloadOperand_isSome (mk : Byte → List Byte → Instr) (args : List Byte) :
    (payloadOperand mk args).isSome = OperandShape.bytePayload.fits args := by
  cases args <;> rfl

/-- A listed code's operands by the table are those that fit its shape by the bit fields. -/
theorem exists_operandShape_code (o : OpCode) :
    ∃ shape, operandShape o.code = some shape ∧ ∀ args, (decodeOperands o args).isSome = shape.fits args := by
  cases o
  case crcByte | rxDecodeSimpleExp | rxDecodeExtExp | rxDecodeTlmExp => exact ⟨.byte, by decide, byteOperand_isSome _⟩
  case txEncodeSimple | txEncodeExt | txEncodeTlm => exact ⟨.bytePayload, by decide, payloadOperand_isSome _⟩
  all_goals exact ⟨.empty, by decide, noOperand_isSome _⟩

theorem requestWf_code_cons (o : OpCode) (args : List Byte) :
    requestWf (o.code :: args) = (decodeOperands o args).isSome := by
  obtain ⟨shape, hshape, hfits⟩ := exists_operandShape_code o
  simp only [requestWf, hshape, hfits]

theorem requestWf_reserved {op : Byte} (h : OpCode.ofByte op = none) (args : List Byte) :
    requestWf (op :: args) = false := by
  simp only [requestWf, (operandShape_eq_none_iff op).2 h]

/-- A request is empty, or begins with a reserved code, or with a listed one. -/
theorem request_cases (request : List Byte) :
    request = [] ∨ (∃ op args, request = op :: args ∧ OpCode.ofByte op = none) ∨
      ∃ o args, request = OpCode.code o :: args := by
  rcases request with _ | ⟨op, args⟩
  · exact .inl rfl
  · rcases ho : OpCode.ofByte op with _ | o
    · exact .inr (.inl ⟨op, args, rfl, ho⟩)
    · exact .inr (.inr ⟨o, args, by rw [(OpCode.ofByte_iff op o).1 ho]⟩)

theorem decode_code_cons (o : OpCode) (args : List Byte) :
    decode (o.code :: args) =
      (decodeOperands o args).elim (.error (.operandCount o.code)) .ok := by
  simp only [decode, OpCode.ofByte_code]
  cases decodeOperands o args <;> rfl

/-- Settles O2: an empty request and a reserved code fail both, and a listed code's shape is the table's. -/
theorem tableAndBitFieldsAcceptTheSameRequests : Obligations.TableAndBitFieldsAcceptTheSameRequests := by
  intro request
  obtain rfl | ⟨op, args, rfl, hop⟩ | ⟨o, args, rfl⟩ := request_cases request
  · simp [decode, requestWf]
  · simp [decode_reserved args hop, requestWf_reserved hop]
  · rw [decode_code_cons, requestWf_code_cons]
    cases decodeOperands o args <;> simp

/-- R83's ranges are the codes that are no mnemonic's. -/
theorem reservedCode_iff_ofByte_eq_none (op : Byte) : reservedCode op ↔ OpCode.ofByte op = none := by
  refine ⟨Encoding.ofByte_eq_none_of_reservedCode, fun h => (Encoding.reservedCode_iff_not_listed op).2 ?_⟩
  revert op
  decide

theorem hostStep_code_cons (o : OpCode) (args : List Byte) (s : State) :
    hostStep (o.code :: args) s =
      (decodeOperands o args).elim (.refused .malformedRequest) fun i => exec i s := by
  simp only [hostStep, decode_code_cons]
  cases decodeOperands o args <;> rfl

/-- Settles O4: the host's step on the three kinds of request. -/
theorem malformedRequestStops : Obligations.MalformedRequestStops := by
  intro request rest s hs
  rw [Encoding.step_of_host hs]
  obtain rfl | ⟨op, args, rfl, hop⟩ | ⟨o, args, rfl⟩ := request_cases request
  · simp [hostStep, decode, requestWf]
  · simp [Encoding.hostStep_of_ofByte_eq_none hop, reservedCode_iff_ofByte_eq_none, hop]
  · have hcode := Encoding.not_reservedCode_code o
    rw [hostStep_code_cons, requestWf_code_cons]
    rcases decodeOperands o args with _ | i
    · simp [hcode]
    · obtain ⟨t, ht⟩ := exec_eq_next i { s with schedule := rest }
      simp [ht]

/-- Settles O5. -/
theorem stepRunsDecodedOperation : Obligations.StepRunsDecodedOperation := by
  intro request i rest s hs hdec
  obtain rfl := Crc.eq_encode_of_decode_eq_ok hdec
  exact Crc.step_of_encode hs

/-- Settles O6. -/
theorem stepRunsTheScheduledAgent : Obligations.StepRunsTheScheduledAgent :=
  fun _ _ => ⟨step_unscheduled, Reset.step_of_schedule, Reset.step_of_schedule⟩

/-- Settles O7: four words are the encodings of their operations, and the fifth has a reserved code. -/
theorem listedRequestsDecode : Obligations.ListedRequestsDecode :=
  ⟨Crc.decode_encode (.crcByte 0x31#8), Crc.decode_encode (.txEncodeSimple 0x05#8 [0x3F#8, 0x00#8]),
    Crc.decode_encode (.rxDecodeTlmExp 0x04#8), Crc.decode_encode .rxStatus, decode_reserved [] (by decide)⟩

/-! ### The laws of the CRC (R105) -/

theorem crc16_append (x y : List Byte) : crc16 (x ++ y) = y.foldl byteStep (crc16 x) := List.foldl_append

theorem crc16_replicate_zero (k : Nat) : crc16 (List.replicate k 0x00#8) = 0x0000#16 := by
  induction k with
  | zero => rfl
  | succ k ih => rw [List.replicate_succ', crc16_append, ih]; exact byteStep_zero

/-- Settles O14. -/
theorem crcOfEmptyZerosAndConcatenation : Obligations.CrcOfEmptyZerosAndConcatenation :=
  ⟨crc16_nil, crc16_replicate_zero, crc16_append⟩

theorem foldl_byteStep_xor {x y : List Byte} (h : x.length = y.length) (a b : Word) :
    (List.zipWith (fun c d => c ^^^ d) x y).foldl byteStep (a ^^^ b) = x.foldl byteStep a ^^^ y.foldl byteStep b := by
  induction x generalizing y a b with
  | nil => cases y with
    | nil => rfl
    | cons d y => cases h
  | cons c x ih => cases y with
    | nil => cases h
    | cons d y =>
      simp only [List.zipWith_cons_cons, List.foldl_cons, byteStep_xor]
      exact ih (Nat.succ.inj h) _ _

/-- Settles O15: byte by byte, from two accumulators instead of two zeros. -/
theorem crcIsLinear : Obligations.CrcIsLinear := by
  intro x y h
  exact foldl_byteStep_xor h crcInitial crcInitial

/-- Settles O16. -/
theorem crcResidueIsZeroForOwnCrcOnly : Obligations.CrcResidueIsZeroForOwnCrcOnly := by
  intro d r
  rw [FramerRx.crc16_append_be16_eq_zero_iff, eq_comm]

/-- Settles O17. -/
theorem crcDetectsEverySingleBitError : Obligations.CrcDetectsEverySingleBitError :=
  fun _ _ _ hi hj => FramerRx.foldl_byteStep_flipBit_ne hi hj crcInitial

/-! ### A step is one agent's (R55, R58) -/

/-- A step takes the head of the schedule, and with nothing scheduled it is the decoder's. -/
theorem step_eq_eventStep (s : State) :
    step s = eventStep (s.schedule.headD .decoder) { s with schedule := s.schedule.tail } := by
  rcases hs : s.schedule with _ | ⟨ev, rest⟩
  · rw [step_unscheduled hs, List.tail_nil, List.headD_nil, ← hs]
    rfl
  · exact Reset.step_of_schedule hs

/-- With an agent other than the decoder the step was scheduled. -/
theorem exists_schedule_of_headD {s : State} {ev : Event} (h : s.schedule.headD .decoder = ev) (hne : ev ≠ .decoder) :
    ∃ rest, s.schedule = ev :: rest := by
  rcases hs : s.schedule with _ | ⟨e, rest⟩
  · rw [hs] at h; exact absurd h.symm hne
  · rw [hs] at h; exact ⟨rest, by rw [← h]; rfl⟩

/-- Settles O19: the agent's step is another one's unless it is one of the three. -/
theorem onlyCrcOperationsWriteAccumulator : Obligations.OnlyCrcOperationsWriteAccumulator := by
  intro s t h hne
  rw [step_eq_eventStep] at h
  by_contra hnot
  have hhead : ∀ ev, ev ≠ .decoder →
      (ev = .reset ∨ ev = .host (encode .crcClear) ∨ ∃ b, ev = .host (encode (.crcByte b))) →
      s.schedule.headD .decoder ≠ ev := by
    intro ev hdec hev heq
    obtain ⟨rest, hs⟩ := exists_schedule_of_headD heq hdec
    exact hnot ⟨ev, rest, hs, hev⟩
  have hsame := Crc.eventStep_crcAcc h (hhead _ (by simp) (.inl rfl)) (hhead _ (by simp) (.inr (.inl rfl)))
    fun b => hhead _ (by simp) (.inr (.inr ⟨b, rfl⟩))
  exact hne hsame

/-! ### What a host operation can do (R39, R80, R242) -/

/-- The TX_ENCODE operations with the variant, the id and the payload they encode (R136 to R138). -/
abbrev EncodesTx (i : Instr) (v : Variant) (c : Byte) (p : List Byte) : Prop :=
  i = .txEncodeSimple c p ∧ v = .simple ∨ i = .txEncodeExt c p ∧ v = .extended ∨ i = .txEncodeTlm c p ∧ v = .telemetry

/-- Every operation writes the accumulator and its counter, or encodes, or arms, or only responds. -/
theorem exec_kinds (i : Instr) (s : State) :
    (∃ a k r, (k = s.crcBit ∨ k = 0) ∧ exec i s = .next ({ s with crcAcc := a, crcBit := k }.respond r)) ∨
    (∃ v c p, EncodesTx i v c p ∧ exec i s = .next (txEncode v c p s)) ∨
    ∃ v en id, exec i s = .next (arm v en id s) := by
  cases i
  case crcByte b => exact .inl ⟨_, _, _, .inr rfl, Crc.exec_crcByte b s⟩
  case crcClear => exact .inl ⟨_, _, _, .inl rfl, Crc.exec_crcClear s⟩
  case crcRead => exact .inl ⟨_, _, _, .inl rfl, Crc.exec_crcRead s⟩
  case rxStatus => exact .inl ⟨_, _, _, .inl rfl, FramerRx.exec_rxStatus s⟩
  case txEncodeSimple c p => exact .inr (.inl ⟨_, c, p, .inl ⟨rfl, rfl⟩, FramerTx.exec_txEncodeSimple c p s⟩)
  case txEncodeExt c p => exact .inr (.inl ⟨_, c, p, .inr (.inl ⟨rfl, rfl⟩), FramerTx.exec_txEncodeExt c p s⟩)
  case txEncodeTlm c p => exact .inr (.inl ⟨_, c, p, .inr (.inr ⟨rfl, rfl⟩), FramerTx.exec_txEncodeTlm c p s⟩)
  all_goals exact .inr (.inr ⟨_, _, _, rfl⟩)

/-- An operation leaves the decoder alone, gives one response, and appends the first bytes of an encoded frame to the
line, if it appends any; or it arms an idle decoder. -/
theorem exec_cases {i : Instr} {s t : State} (h : exec i s = .next t) :
    (SameDecoder s t ∧ (t.crcBit = s.crcBit ∨ t.crcBit = 0) ∧ (∃ r, t.responses = s.responses ++ [r]) ∧
      (t.txLine = s.txLine ∨
        ∃ v c p f n, EncodesTx i v c p ∧ frameOf v c p = some f ∧ t.txLine = s.txLine ++ f.take n)) ∨
    s.rxPhase = .idle ∧ ∃ v en id, t = arm v en id s := by
  obtain ⟨a, k, r, hk, hexec⟩ | ⟨v, c, p, hi, hexec⟩ | ⟨v, en, id, hexec⟩ := exec_kinds i s <;>
    cases hexec.symm.trans h
  · exact .inl ⟨by simp [SameDecoder], hk, ⟨r, rfl⟩, .inl rfl⟩
  · obtain ⟨r, ht⟩ | ⟨f, n, w, r, hf, -, ht⟩ := txEncode_cases v c p s <;> rw [ht]
    · exact .inl ⟨by simp [SameDecoder], .inl rfl, ⟨r, rfl⟩, .inl rfl⟩
    · exact .inl ⟨by simp [SameDecoder], .inl rfl, ⟨r, rfl⟩, .inr ⟨v, c, p, f, n, hi, hf, rfl⟩⟩
  · by_cases hp : s.rxPhase = .idle
    · exact .inr ⟨hp, v, en, id, rfl⟩
    · rw [arm_busy hp]
      exact .inl ⟨by simp [SameDecoder], .inl rfl, ⟨_, rfl⟩, .inl rfl⟩

/-- Settles O31: only an idle decoder can be armed. -/
theorem hostOperationsLeaveADecodeAlone : Obligations.HostOperationsLeaveADecodeAlone := by
  intro i s harmed
  obtain ⟨t, h⟩ := exec_eq_next i s
  obtain ⟨hsame, -⟩ | ⟨hidle, -⟩ := exec_cases h
  · exact ⟨t, h, hsame⟩
  · exact absurd hidle harmed

theorem exec_responses {i : Instr} {s t : State} (h : exec i s = .next t) : ∃ r, t.responses = s.responses ++ [r] := by
  obtain ⟨-, -, hresp, -⟩ | ⟨hidle, v, en, id, rfl⟩ := exec_cases h
  · exact hresp
  · rw [arm_idle hidle]
    exact ⟨_, rfl⟩

theorem hostStep_responses {request : List Byte} {s t : State} (h : hostStep request s = .next t) :
    ∃ r, t.responses = s.responses ++ [r] := by
  obtain ⟨i, -, hexec⟩ | ⟨op, args, -, -, rfl⟩ := hostStep_cases h
  · exact exec_responses hexec
  · exact ⟨_, rfl⟩

/-- What the host's operations alone write: no other agent gives a response or extends the line. -/
theorem eventStep_observations {ev : Event} {s t : State} (h : eventStep ev s = .next t)
    (hhost : ∀ request, ev ≠ .host request) : t.responses = s.responses ∧ t.txLine = s.txLine := by
  cases ev with
  | host request => exact absurd rfl (hhost request)
  | decoder =>
    obtain ⟨⟨-, -, hline, -, -, hresp⟩, -⟩ := decoderStep_elsewhere h
    exact ⟨hresp.symm, hline.symm⟩
  | timeout =>
    cases h
    obtain ⟨⟨-, -, hline, -, -, hresp⟩, -⟩ := timeoutStep_elsewhere s
    exact ⟨hresp.symm, hline.symm⟩
  | linkByte b =>
    cases h
    unfold linkByteStep
    split <;> exact ⟨rfl, rfl⟩
  | linkOpen | linkClose | drawWrite w | reset => cases h; exact ⟨rfl, rfl⟩

/-- Settles O32: the host's step responds once, and the other agents' not at all. -/
theorem oneResponsePerHostOperation : Obligations.OneResponsePerHostOperation := by
  intro s t h
  refine ⟨fun request rest hs => ?_, fun hs => ?_⟩
  · rw [Encoding.step_of_host hs] at h
    obtain ⟨r, hr⟩ := hostStep_responses h
    exact ⟨r, hr⟩
  · rw [step_eq_eventStep] at h
    refine (eventStep_observations h fun request hev => ?_).1
    obtain ⟨rest, hsched⟩ := exists_schedule_of_headD hev (by simp)
    exact hs request rest hsched

/-- The host's step leaves the line or is a TX_ENCODE's. -/
theorem hostStep_txLine {request : List Byte} {s t : State} (h : hostStep request s = .next t) :
    t.txLine = s.txLine ∨
    ∃ v c p f n i, decode request = .ok i ∧ EncodesTx i v c p ∧ frameOf v c p = some f ∧
      t.txLine = s.txLine ++ f.take n := by
  obtain ⟨i, hi, hexec⟩ | ⟨op, args, -, -, rfl⟩ := hostStep_cases h
  · obtain ⟨-, -, -, hline | ⟨v, c, p, f, n, henc, hf, hline⟩⟩ | ⟨hidle, v, en, id, rfl⟩ := exec_cases hexec
    · exact .inl hline
    · exact .inr ⟨v, c, p, f, n, i, hi, henc, hf, hline⟩
    · rw [arm_idle hidle]
      exact .inl rfl
  · exact .inl rfl

/-- Settles O27: by the agent that takes the step. -/
theorem onlyTxEncodeExtendsTheLine : Obligations.OnlyTxEncodeExtendsTheLine := by
  intro s t h
  by_cases hhost : ∃ request rest, s.schedule = .host request :: rest
  · obtain ⟨request, rest, hs⟩ := hhost
    rw [Encoding.step_of_host hs] at h
    obtain hline | ⟨v, c, p, f, n, i, hi, henc, hf, hline⟩ := hostStep_txLine h
    · exact .inl hline
    · exact .inr ⟨v, c, p, f, n, request, rest, i, hs, hi, henc, hf, hline⟩
  · rw [step_eq_eventStep] at h
    refine .inl (eventStep_observations h fun request hev => hhost ?_).2
    exact ⟨request, exists_schedule_of_headD hev (by simp)⟩

/-- Settles O11: neither operation writes what the other reading of it reads. -/
theorem repeatedReadsAgree : Obligations.RepeatedReadsAgree := by
  rintro i s (rfl | rfl)
  · refine ⟨.value s.crcAcc, ?_⟩
    rw [Crc.exec_crcRead, andThen_next, Crc.exec_crcRead]
    simp [State.respond]
  · refine ⟨.report s.rxPhase.code s.rxResult.code s.rxFrame, ?_⟩
    rw [FramerRx.exec_rxStatus, andThen_next, FramerRx.exec_rxStatus]
    simp [State.respond]

/-! ### Single steps of the link, the timer and the decoder (R161, R167, R173, R180) -/

/-- Settles O51: each clause by its agent's rule. -/
theorem linkStepsChangeLinkAndQueueOnly : Obligations.LinkStepsChangeLinkAndQueueOnly := by
  intro s b w rest
  refine ⟨Reset.step_of_schedule, Reset.step_of_schedule, fun hs hl => ?_, fun hs hl => ?_, fun hs hl => ?_,
    Reset.step_of_schedule, fun _ => run_zero s⟩
  · rw [Reset.step_of_schedule hs]
    exact congrArg Host.Outcome.next (linkByteStep_open b hl)
  · rw [Reset.step_of_schedule hs]
    exact congrArg Host.Outcome.next (linkByteStep_closed b hl)
  · calc run flushInput.length s
      _ = run 1 (linkCloseStep { s with schedule := .linkOpen :: rest }) := by
        rw [show flushInput.length = 1 + 1 from rfl, run_succ, Reset.step_of_schedule hs]; rfl
      _ = .next (linkOpenStep (linkCloseStep { s with schedule := rest })) := by
        rw [run_succ, Reset.step_of_schedule rfl]; rfl
      _ = .next { s with schedule := rest, rxQueue := [] } := by
        simp only [linkOpenStep, linkCloseStep, hl]

theorem timeoutStep_of_waiting {s : State} (h : s.waiting = true) :
    timeoutStep s = finished (if s.rxPhase = .start then .noData else .truncated) Frame.cleared s := by
  rw [timeoutStep, if_pos h, finish_eq_finished (by simp), finish_eq_finished (by simp)]
  split <;> rfl

theorem timeoutStep_of_not_waiting {s : State} (h : ¬ s.waiting = true) : timeoutStep s = s := if_neg h

/-- Settles O34: the byte that is appended ends the wait. -/
theorem timeoutFinishesAWaitingDecode : Obligations.TimeoutFinishesAWaitingDecode := by
  intro s harmed hl hq
  refine ⟨decoderStep_waiting hl hq, timeoutStep_of_waiting (waiting_iff.2 ⟨harmed, hl, hq⟩), fun b => ?_⟩
  rw [linkByteStep_open b hl, hq, timeoutStep_of_not_waiting (by simp [waiting_iff])]
  rfl

/-- Settles O35. -/
theorem stepsNotEnabledChangeNothing : Obligations.StepsNotEnabledChangeNothing := by
  refine fun s => ⟨decoderStep_idle, decoderStep_waiting, fun h => timeoutStep_of_not_waiting fun hw => ?_⟩
  obtain ⟨harmed, hl, hq⟩ := waiting_iff.1 hw
  simp [harmed, hl, hq] at h

/-- Settles O39. -/
theorem crcBytesAreTaken : Obligations.CrcBytesAreTaken := by
  intro s b q hl hq
  refine ⟨fun hp => ?_, fun hp hv hlow => ?_⟩
  · rw [FramerRx.decoderStep_crch hl hq hp, inHighByte_eq_ofNat]
  · rw [FramerRx.decoderStep_crcl hl hq hp hv, FramerRx.or_zext16_eq_ofNat b hlow]

/-! ### The covered bytes as received and as encoded (R76) -/

theorem ofNat_toNat_byte (b : Byte) : BitVec.ofNat 8 b.toNat = b := BitVec.ofNat_toNat 8 b

/-- A full body behind its length field is covered as the encoder covers it, and is within the variant's bound. -/
theorem coveredBytes_body {s : State} {c : Byte} {p : List Byte} (hread : LengthRead s)
    (hfull : s.rxData.length = s.rxLen.toNat) (hv : s.rxVariant ≠ .telemetry) (hdata : s.rxData = c :: p) :
    coveredBytes s.rxVariant s.rxId s.rxLenbytes s.rxData = coveredOf s.rxVariant c p ∧
      p.length ≤ maxPayload s.rxVariant := by
  obtain ⟨-, hsimple, -, hlen⟩ := hread
  rw [hdata, List.length_cons] at hfull
  rw [hdata]
  cases hs : s.rxVariant with
  | telemetry => exact absurd hs hv
  | extended =>
    have := s.rxLen.isLt
    exact ⟨rfl, by simp only [maxPayload]; omega⟩
  | simple =>
    obtain ⟨b, hb⟩ := List.length_eq_one_iff.1 (hsimple hs)
    rw [hlen, hb, lengthOf_one, zext16_toNat] at hfull
    have := b.isLt
    rw [hb, coveredBytes, coveredOf, hfull, ofNat_toNat_byte]
    exact ⟨rfl, by simp only [maxPayload]; omega⟩

/-- A full TELEMETRY payload behind its length field, likewise. -/
theorem coveredBytes_telemetry {s : State} (hread : LengthRead s) (hfull : s.rxData.length = s.rxLen.toNat)
    (hv : s.rxVariant = .telemetry) :
    [s.rxId] ++ s.rxLenbytes ++ s.rxData = coveredOf .telemetry s.rxId s.rxData ∧
      s.rxData.length ≤ maxPayload .telemetry := by
  obtain ⟨-, -, htlm, hlen⟩ := hread
  obtain ⟨hi, lo, hb⟩ := List.length_eq_two.1 (htlm hv)
  have := hi.isLt
  have := lo.isLt
  rw [hlen, hb, lengthOf_two, assemble_toNat] at hfull
  have hhi : BitVec.ofNat 8 (s.rxData.length / 256) = hi := by
    rw [hfull, ← ofNat_toNat_byte hi]; congr 1; rw [BitVec.toNat_ofNat]; omega
  have hlo : BitVec.ofNat 8 s.rxData.length = lo := by
    apply BitVec.eq_of_toNat_eq; rw [hfull, BitVec.toNat_ofNat]; omega
  rw [coveredOf, hhi, hlo, hb]
  exact ⟨rfl, by simp only [maxPayload]; omega⟩

/-! ### One taken byte (R168 to R174) -/

/-- The last byte of a decode that is judged is next: TELEMETRY's CRCL, and END of the others (R173). -/
abbrev AtLastByte (s : State) : Prop :=
  s.rxPhase = .crcl ∧ s.rxVariant = .telemetry ∨ s.rxPhase = .endByte ∧ s.rxVariant ≠ .telemetry

theorem AtLastByte.armed {s : State} (h : AtLastByte s) : s.rxPhase ≠ .idle := by
  obtain ⟨hp, -⟩ | ⟨hp, -⟩ := h <;> simp [hp]

theorem AtLastByte.started {s : State} (h : AtLastByte s) : s.rxPhase ≠ .start := by
  obtain ⟨hp, -⟩ | ⟨hp, -⟩ := h <;> simp [hp]

/-- The results of a judgement (R174); a TELEMETRY frame has no END byte and may be empty. -/
abbrev Judged (v : Variant) (r : RxResult) : Prop :=
  r ∈ [RxResult.frame, .badCrc, .unexpectedId] ∨ v ≠ .telemetry ∧ r ∈ [RxResult.badEnd, .emptyBody]

/-- The next states of a decoder that takes a byte, one constructor per row of R168 to R173 and two for the judgement
of R174: a rejection, and an acceptance. -/
inductive Taken (s : State) (b : Byte) (q : List Byte) : State → Prop
  | short (hp : s.rxPhase = .start) (hv : s.rxVariant ≠ .telemetry) (hb : b = 0x02#8) :
      Taken s b q { s with rxQueue := q, rxPhase := .len1 }
  | long (hp : s.rxPhase = .start) (hv : s.rxVariant = .extended) (hb : b = 0x03#8) :
      Taken s b q { s with rxQueue := q, rxPhase := .lenh }
  | packetId (hp : s.rxPhase = .start) (hv : s.rxVariant = .telemetry) :
      Taken s b q { s with rxQueue := q, rxId := b, rxPhase := .lenh }
  | badStart (hp : s.rxPhase = .start)
      (hb : s.rxVariant = .simple ∧ b ≠ 0x02#8 ∨ s.rxVariant = .extended ∧ b ≠ 0x02#8 ∧ b ≠ 0x03#8) :
      Taken s b q (finished .badStart Frame.cleared { s with rxQueue := q })
  | len1 (hp : s.rxPhase = .len1) :
      Taken s b q { s with
        rxQueue := q, rxLenbytes := [b], rxLen := zext16 b, rxPhase := afterLength (zext16 b) }
  | lenh (hp : s.rxPhase = .lenh) : Taken s b q { s with rxQueue := q, rxLenbytes := [b], rxPhase := .lenl }
  | lenl (hp : s.rxPhase = .lenl) {hi : Byte} (hhi : s.rxLenbytes = [hi]) :
      Taken s b q { s with
        rxQueue := q, rxLenbytes := [hi, b], rxLen := assemble hi b, rxPhase := afterLength (assemble hi b) }
  | data (hp : s.rxPhase = .data) :
      Taken s b q { s with
        rxQueue := q, rxData := s.rxData ++ [b],
        rxPhase := if s.rxData.length + 1 = s.rxLen.toNat then .crch else .data }
  | crch (hp : s.rxPhase = .crch) : Taken s b q { s with rxQueue := q, rxCrc := inHighByte b, rxPhase := .crcl }
  | crcl (hp : s.rxPhase = .crcl) (hv : s.rxVariant ≠ .telemetry) :
      Taken s b q { s with rxQueue := q, rxCrc := s.rxCrc ||| zext16 b, rxPhase := .endByte }
  | rejected {r : RxResult} (hlast : AtLastByte s) (hr : Judged s.rxVariant r) (hne : r ≠ .frame) :
      Taken s b q (finished r Frame.cleared { s with rxQueue := q })
  | accepted {f : Frame} (hlast : AtLastByte s) (hf : AcceptedFrame { s with rxFrame := f }) :
      Taken s b q (finished .frame f { s with rxQueue := q })

/-- The last two checks, on covered bytes that are those of the frame's id and payload, reject or accept. -/
theorem taken_verdict {s : State} {b c : Byte} {q cov p : List Byte} {crc : Word}
    (hlast : AtLastByte s) (hcov : cov = coveredOf s.rxVariant c p) (hp : p.length ≤ maxPayload s.rxVariant) :
    Taken s b q (verdict cov c p { s with rxQueue := q, rxCrc := crc }) := by
  rw [verdict_eq_finished]
  split
  · exact .rejected hlast (.inl (by simp)) (by simp)
  next hcrc =>
    split
    · exact .rejected hlast (.inl (by simp)) (by simp)
    next hid =>
      refine .accepted hlast ⟨hp, (hcov ▸ not_not.1 hcrc).symm, fun hexp => ?_⟩
      by_contra hne
      exact hid ⟨hexp, hne⟩

/-- The clauses of the invariant that speak of the partial-frame fields. -/
theorem fields_of_consistent {s : State} (hc : Consistent s) :
    s.rxEnd = 0x00#8 ∧ (s.rxVariant ≠ .telemetry → s.rxId = 0x00#8) ∧ phaseFields s = true := by
  obtain ⟨-, hend, -, -, -, -, hid, -, hphase⟩ := hc
  exact ⟨hend, hid, hphase⟩

/-- From every state of the invariant the decoder's step on a queued byte answers a next state, by one of the rows. -/
theorem exists_taken {s : State} {b : Byte} {q : List Byte} (hc : Consistent s) (harmed : s.rxPhase ≠ .idle)
    (hl : s.linkOpen = true) (hq : s.rxQueue = b :: q) : ∃ t, decoderStep s = .next t ∧ Taken s b q t := by
  obtain ⟨-, -, hphase⟩ := fields_of_consistent hc
  obtain ⟨-, -, -, -, hlenl, -, -, hcrcl, hend⟩ := (phaseFields_iff s).1 hphase
  cases hp : s.rxPhase with
  | idle => exact absurd hp harmed
  | start =>
    by_cases hv : s.rxVariant = .telemetry
    · exact ⟨_, FramerRx.decoderStep_start_telemetry hl hq hp hv, .packetId hp hv⟩
    by_cases hb : b = 0x02#8
    · exact ⟨_, FramerRx.decoderStep_start_short hl hp hv (hb ▸ hq), .short hp hv hb⟩
    by_cases hlong : s.rxVariant = .extended ∧ b = 0x03#8
    · exact ⟨_, FramerRx.decoderStep_start_long hl hp hlong.1 (hlong.2 ▸ hq), .long hp hlong.1 hlong.2⟩
    have hbad : s.rxVariant = .simple ∧ b ≠ 0x02#8 ∨ s.rxVariant = .extended ∧ b ≠ 0x02#8 ∧ b ≠ 0x03#8 := by
      cases hs : s.rxVariant with
      | simple => exact .inl ⟨rfl, hb⟩
      | extended => exact .inr ⟨rfl, hb, fun h3 => hlong ⟨hs, h3⟩⟩
      | telemetry => exact absurd hs hv
    exact ⟨_, FramerRx.decoderStep_start_bad hl hq hp hbad, .badStart hp hbad⟩
  | len1 => exact ⟨_, FramerRx.decoderStep_len1 hl hq hp, .len1 hp⟩
  | lenh => exact ⟨_, FramerRx.decoderStep_lenh hl hq hp, .lenh hp⟩
  | lenl =>
    obtain ⟨-, hone, -⟩ := hlenl hp
    obtain ⟨hi, hhi⟩ := List.length_eq_one_iff.1 hone
    exact ⟨_, FramerRx.decoderStep_lenl hl hq hp (by rw [hhi]; rfl), .lenl hp hhi⟩
  | data => exact ⟨_, FramerRx.decoderStep_data hl hq hp, .data hp⟩
  | crch => exact ⟨_, FramerRx.decoderStep_crch hl hq hp, .crch hp⟩
  | crcl =>
    by_cases hv : s.rxVariant = .telemetry
    · obtain ⟨hread, hfull, -⟩ := hcrcl hp
      obtain ⟨hcov, hmax⟩ := coveredBytes_telemetry hread hfull hv
      exact ⟨_, FramerRx.decoderStep_crcl_telemetry hl hq hp hv,
        taken_verdict (.inl ⟨hp, hv⟩) (by rw [hcov, hv]) (by rw [hv]; exact hmax)⟩
    · exact ⟨_, FramerRx.decoderStep_crcl hl hq hp hv, .crcl hp hv⟩
  | endByte =>
    obtain ⟨hread, hfull, hv⟩ := hend hp
    refine ⟨_, FramerRx.decoderStep_end hl hq hp hv hfull, ?_⟩
    split
    · exact .rejected (.inr ⟨hp, hv⟩) (.inr ⟨hv, by simp⟩) (by simp)
    split
    · exact .rejected (.inr ⟨hp, hv⟩) (.inr ⟨hv, by simp⟩) (by simp)
    next hlen =>
      obtain ⟨c, p, hdata⟩ : ∃ c p, s.rxData = c :: p := List.exists_cons_of_length_pos (by bv_omega)
      obtain ⟨hcov, hmax⟩ := coveredBytes_body hread hfull hv hdata
      rw [hcov, hdata]
      exact taken_verdict (crc := s.rxCrc) (.inr ⟨hp, hv⟩) rfl hmax

/-! ### The decoder keeps the invariant -/

/-- An armed decoder that goes on to another phase keeps the invariant where the new phase's fields are right. -/
theorem consistent_advance {s : State} {ph : RxPhase} {id : Byte} {lb d q : List Byte} {len crc : Word}
    (hc : Consistent s) (harmed : s.rxPhase ≠ .idle) (hl : s.linkOpen = true) (hph : ph ≠ .idle)
    (hid : s.rxVariant ≠ .telemetry → id = 0x00#8)
    (hfields : phaseFields { s with
      rxPhase := ph, rxId := id, rxLenbytes := lb, rxLen := len, rxData := d, rxCrc := crc, rxQueue := q } = true) :
    Consistent { s with
      rxPhase := ph, rxId := id, rxLenbytes := lb, rxLen := len, rxData := d, rxCrc := crc, rxQueue := q } := by
  obtain ⟨hbit, hend, hexp, hpend, hclear, hacc, -, -, -⟩ := hc
  exact ⟨hbit, hend, hexp, iff_of_true (hpend.2 harmed) hph, hclear, hacc, hid,
    fun h => absurd (hl.symm.trans h) (by simp), hfields⟩

/-- The phase after a length field starts with an empty buffer. -/
theorem phaseFields_afterLength {t : State} (hp : t.rxPhase = afterLength t.rxLen) (hread : LengthRead t)
    (hdata : t.rxData = []) (hcrc : t.rxCrc = 0x0000#16) : phaseFields t = true := by
  unfold afterLength at hp
  split at hp
  next h0 =>
    simp only [phaseFields, hp, decide_eq_true_eq]
    exact ⟨hread, by rw [hdata, h0]; rfl, hcrc⟩
  next h0 =>
    simp only [phaseFields, hp, decide_eq_true_eq]
    exact ⟨hread, by rw [hdata, List.length_nil]; bv_omega, hcrc⟩

/-- What a decoder that finishes holds is cleared or valid. -/
theorem consistent_finished_of_consistent {s : State} {r : RxResult} {f : Frame} (q : List Byte) (hc : Consistent s)
    (hr : r ≠ .pending) (hl : s.linkOpen = false → q = []) (hf : r ≠ .frame → f = Frame.cleared)
    (hacc : r = .frame → AcceptedFrame { s with rxFrame := f }) :
    Consistent (finished r f { s with rxQueue := q }) := by
  obtain ⟨hbit, -, hexp, -, -, -, -, -, -⟩ := hc
  exact consistent_finished hbit hexp hl hr hf hacc

theorem Taken.consistent {s t : State} {b : Byte} {q : List Byte} (h : Taken s b q t) (hc : Consistent s)
    (hl : s.linkOpen = true) : Consistent t := by
  obtain ⟨-, hid, hphase⟩ := fields_of_consistent hc
  obtain ⟨-, hstart, hlen1, hlenh, hlenl, hdata, hcrch, hcrcl, -⟩ := (phaseFields_iff s).1 hphase
  have hopen : ∀ q' : List Byte, s.linkOpen = false → q' = [] := fun _ h => absurd (hl.symm.trans h) (by simp)
  cases h with
  | short hp hv hb =>
    obtain ⟨-, hlb, hunread⟩ := hstart hp
    exact consistent_advance hc (by simp [hp]) hl (by simp) hid (by simp [phaseFields, hv, hlb, hunread])
  | long hp hv hb =>
    obtain ⟨-, hlb, hunread⟩ := hstart hp
    exact consistent_advance hc (by simp [hp]) hl (by simp) hid (by simp [phaseFields, hv, hlb, hunread])
  | packetId hp hv =>
    obtain ⟨-, hlb, hunread⟩ := hstart hp
    exact consistent_advance hc (by simp [hp]) hl (by simp) (absurd hv) (by simp [phaseFields, hv, hlb, hunread])
  | badStart hp hb => exact consistent_finished_of_consistent q hc (by simp) (hopen q) (by simp) (by simp)
  | len1 hp =>
    obtain ⟨hv, -, -, hd, hcrc⟩ := hlen1 hp
    exact consistent_advance hc (by simp [hp]) hl (afterLength_ne_idle _) hid
      (phaseFields_afterLength rfl ⟨.inl rfl, fun _ => rfl, fun htlm => absurd htlm hv, rfl⟩ hd hcrc)
  | lenh hp =>
    obtain ⟨hv, -, hunread⟩ := hlenh hp
    exact consistent_advance hc (by simp [hp]) hl (by simp) hid (by simp [phaseFields, hv, hunread])
  | lenl hp hhi =>
    obtain ⟨hv, -, -, hd, hcrc⟩ := hlenl hp
    exact consistent_advance hc (by simp [hp]) hl (afterLength_ne_idle _) hid
      (phaseFields_afterLength rfl ⟨.inr rfl, fun hsimple => absurd hsimple hv, fun _ => rfl, rfl⟩ hd hcrc)
  | data hp =>
    obtain ⟨hread, hlt, hcrc⟩ := hdata hp
    refine consistent_advance hc (by simp [hp]) hl (by split <;> simp) hid ?_
    split
    next hfull =>
      simp only [phaseFields, decide_eq_true_eq]
      exact ⟨hread, by simpa using hfull, hcrc⟩
    next hmore =>
      simp only [phaseFields, decide_eq_true_eq]
      exact ⟨hread, by simp; omega, hcrc⟩
  | crch hp =>
    obtain ⟨hread, hfull, -⟩ := hcrch hp
    refine consistent_advance hc (by simp [hp]) hl (by simp) hid ?_
    simp only [phaseFields, decide_eq_true_eq]
    exact ⟨hread, hfull, lowByte_inHighByte b⟩
  | crcl hp hv =>
    obtain ⟨hread, hfull, -⟩ := hcrcl hp
    refine consistent_advance hc (by simp [hp]) hl (by simp) hid ?_
    simp only [phaseFields, decide_eq_true_eq]
    exact ⟨hread, hfull, hv⟩
  | rejected hlast hr hne =>
    exact consistent_finished_of_consistent q hc (by rintro rfl; simp [Judged] at hr) (hopen q) (fun _ => rfl)
      fun h => absurd h hne
  | accepted hlast hf => exact consistent_finished_of_consistent q hc (by simp) (hopen q) (by simp) fun _ => hf

/-- Everything the decoder's step can do from a state of the invariant (R161): nothing while idle or waiting, the
link-closed finish, or a take. -/
theorem decoderStep_cases {s : State} (hc : Consistent s) :
    (s.rxPhase = .idle ∨ s.waiting = true) ∧ decoderStep s = .next s ∨
    s.cutOff = true ∧ decoderStep s = .next (finished .linkError Frame.cleared s) ∨
    s.canTake = true ∧ ∃ b q t, s.rxQueue = b :: q ∧ decoderStep s = .next t ∧ Taken s b q t := by
  by_cases hp : s.rxPhase = .idle
  · exact .inl ⟨.inl hp, decoderStep_idle hp⟩
  obtain htake | hcut | hwait := armed_cases hp
  · obtain ⟨-, hl, hq⟩ := canTake_iff.1 htake
    obtain ⟨b, q, hq⟩ := List.exists_cons_of_ne_nil hq
    obtain ⟨t, ht, htaken⟩ := exists_taken hc hp hl hq
    exact .inr (.inr ⟨htake, b, q, t, hq, ht, htaken⟩)
  · refine .inr (.inl ⟨hcut, ?_⟩)
    rw [decoderStep_closed hp (cutOff_iff.1 hcut).2, finish_eq_finished (by simp)]
  · obtain ⟨-, hl, hq⟩ := waiting_iff.1 hwait
    exact .inl ⟨.inr hwait, decoderStep_waiting hl hq⟩

theorem link_of_consistent {s : State} (hc : Consistent s) : s.linkOpen = false → s.rxQueue = [] := by
  obtain ⟨-, -, -, -, -, -, -, hlink, -⟩ := hc
  exact hlink

/-- The decoder's step answers a next state, which meets the invariant again. -/
theorem exists_consistent_decoderStep {s : State} (hc : Consistent s) :
    ∃ t, decoderStep s = .next t ∧ Consistent t := by
  obtain ⟨-, h⟩ | ⟨-, h⟩ | ⟨htake, b, q, t, hq, h, htaken⟩ := decoderStep_cases hc
  · exact ⟨s, h, hc⟩
  · exact ⟨_, h, consistent_finished_of_consistent s.rxQueue hc (by simp) (link_of_consistent hc) (by simp) (by simp)⟩
  · exact ⟨t, h, htaken.consistent hc (canTake_iff.1 htake).2.1⟩

theorem consistent_timeoutStep {s : State} (hc : Consistent s) : Consistent (timeoutStep s) := by
  by_cases hw : s.waiting = true
  · rw [timeoutStep_of_waiting hw]
    exact consistent_finished_of_consistent s.rxQueue hc (by split <;> simp) (link_of_consistent hc) (fun _ => rfl)
      (by split <;> simp)
  · rwa [timeoutStep_of_not_waiting hw]

/-! ### Every agent keeps the invariant -/

/-- The invariant reads the decoder, the link and the queue, and the bit counter besides. -/
theorem consistent_of_sameDecoder {s t : State} (h : SameDecoder s t) (hbit : t.crcBit = 0) (hc : Consistent s) :
    Consistent t := by
  rw [← FramerRx.amid_eq_of_sameDecoder h]
  exact ⟨hbit, hc.2⟩

theorem consistent_arm {s : State} (v : Variant) (en : Bool) (id : Byte) (hc : Consistent s)
    (hidle : s.rxPhase = .idle) : Consistent (arm v en id s) := by
  obtain ⟨hbit, hend, -, -, -, -, -, hlink, hphase⟩ := hc
  obtain ⟨hfields, -⟩ := (phaseFields_iff s).1 hphase
  obtain ⟨hid, hlb, hunread⟩ := hfields hidle
  rw [arm_idle hidle]
  refine ⟨hbit, hend, fun hen => ?_, by simp, fun _ => rfl, by simp, fun _ => hid, hlink, ?_⟩
  · simp only [State.respond] at hen ⊢
    rw [hen]
    rfl
  · simp [phaseFields, hid, hlb, hunread]

theorem consistent_exec {i : Instr} {s t : State} (h : exec i s = .next t) (hc : Consistent s) : Consistent t := by
  obtain ⟨hsame, hbit, -⟩ | ⟨hidle, v, en, id, rfl⟩ := exec_cases h
  · obtain ⟨hzero, -⟩ := id hc
    exact consistent_of_sameDecoder hsame (hbit.elim (fun h => h.trans hzero) id) hc
  · exact consistent_arm v en id hc hidle

theorem consistent_blockReset {s : State} (hc : Consistent s) : Consistent (blockReset s) := by
  have hlink := link_of_consistent hc
  exact ⟨rfl, rfl, fun _ => rfl, by simp, fun _ => rfl, by simp, fun _ => rfl, hlink, by simp [phaseFields]⟩

/-- The link's changes of its state and the queue keep the invariant where a closed link holds no bytes. -/
theorem consistent_link {s : State} (l : Bool) (q : List Byte) (hlink : l = false → q = []) (hc : Consistent s) :
    Consistent { s with linkOpen := l, rxQueue := q } := by
  obtain ⟨hbit, hend, hexp, hpend, hclear, hacc, hid, -, hphase⟩ := hc
  exact ⟨hbit, hend, hexp, hpend, hclear, hacc, hid, hlink, hphase⟩

theorem consistent_eventStep {ev : Event} {s t : State} (h : eventStep ev s = .next t) (hc : Consistent s) :
    Consistent t := by
  cases ev with
  | host request =>
    obtain ⟨i, -, hexec⟩ | ⟨op, args, -, -, rfl⟩ := hostStep_cases h
    · exact consistent_exec hexec hc
    · exact hc
  | decoder =>
    obtain ⟨u, hu, hcu⟩ := exists_consistent_decoderStep hc
    cases hu.symm.trans h
    exact hcu
  | timeout => cases h; exact consistent_timeoutStep hc
  | linkOpen => cases h; exact consistent_link true s.rxQueue (by simp) hc
  | linkClose => cases h; exact consistent_link false [] (by simp) hc
  | linkByte b =>
    cases h
    cases hl : s.linkOpen with
    | false => rwa [linkByteStep_closed b hl]
    | true =>
      rw [linkByteStep_open b hl]
      exact consistent_link s.linkOpen _ (by simp [hl]) hc
  | drawWrite w => cases h; exact hc
  | reset => cases h; exact consistent_blockReset hc

/-- Settles O55: the agent's step from the state without its event, which the invariant does not read. -/
theorem everyStepKeepsTheInvariant : Obligations.EveryStepKeepsTheInvariant := by
  intro s t hc h
  rw [step_eq_eventStep] at h
  exact consistent_eventStep h hc

/-- Settles O54: the start state is written out, and the invariant is decidable. -/
theorem invariantHoldsAtReset : Obligations.InvariantHoldsAtReset := by
  unfold Obligations.InvariantHoldsAtReset
  decide

/-! ### No step traps, and what was accepted is encodable (R200, R232) -/

theorem Taken.rxQueue {s t : State} {b : Byte} {q : List Byte} (h : Taken s b q t) : t.rxQueue = q := by
  cases h <;> rfl

/-- Settles O42: of the decoder's three kinds of step only the take touches the queue. -/
theorem decoderTakesOnlyTheHead : Obligations.DecoderTakesOnlyTheHead := by
  intro s hc
  obtain ⟨hoff, h⟩ | ⟨hcut, h⟩ | ⟨htake, b, q, t, hq, h, htaken⟩ := decoderStep_cases hc
  · refine ⟨s, h, fun harmed _ => ?_, fun _ => rfl⟩
    obtain ⟨-, -, hq⟩ := waiting_iff.1 (hoff.resolve_left harmed)
    rw [hq, List.drop_nil]
  · obtain ⟨-, hl⟩ := cutOff_iff.1 hcut
    exact ⟨_, h, fun _ hopen => absurd (hopen.symm.trans hl) (by simp), fun _ => rfl⟩
  · obtain ⟨harmed, hl, -⟩ := canTake_iff.1 htake
    refine ⟨t, h, fun _ _ => by rw [htaken.rxQueue, hq]; rfl, ?_⟩
    rintro (hidle | hclosed)
    · exact absurd hidle harmed
    · exact absurd (hl.symm.trans hclosed) (by simp)

/-- The host's step is refused a malformed request only. -/
theorem exists_hostStep {request : List Byte}
    (h : requestWf request = true ∨ ∃ op args, request = op :: args ∧ reservedCode op) (s : State) :
    ∃ t, hostStep request s = .next t := by
  obtain hwf | ⟨op, args, rfl, hop⟩ := h
  · obtain ⟨i, hi⟩ := (tableAndBitFieldsAcceptTheSameRequests request).2 hwf
    simp only [hostStep, hi]
    exact exec_eq_next i s
  · exact ⟨_, Encoding.hostStep_of_ofByte_eq_none ((reservedCode_iff_ofByte_eq_none op).1 hop) args s⟩

/-- Settles O56: by the agent that takes the step. -/
theorem noTrapAndEveryOperationAccepted : Obligations.NoTrapAndEveryOperationAccepted := by
  intro s hc hwf
  rw [step_eq_eventStep]
  cases hev : s.schedule.headD .decoder with
  | host request =>
    obtain ⟨rest, hs⟩ := exists_schedule_of_headD hev (by simp)
    exact exists_hostStep (hwf request rest hs) _
  | decoder =>
    obtain ⟨t, h, -⟩ := exists_consistent_decoderStep (s := { s with schedule := s.schedule.tail }) hc
    exact ⟨t, h⟩
  | timeout | linkOpen | linkClose | linkByte b | drawWrite w | reset => exact ⟨_, rfl⟩

/-- Within the bound the encoder of a variant makes a frame, with the CRC of the covered bytes before the END delimiter,
if there is one. -/
theorem exists_frameOf {v : Variant} {p : List Byte} (c : Byte) (h : p.length ≤ maxPayload v) :
    ∃ front tail, frameOf v c p = some (front ++ be16 (crc16 (coveredOf v c p)) ++ tail) ∧
      (v = .telemetry → tail = []) ∧ (v ≠ .telemetry → tail = [0x03#8]) := by
  cases v with
  | simple => exact ⟨_, _, frameSimple_of_le h, by simp, fun _ => rfl⟩
  | extended => exact ⟨_, _, frameExt_of_le h, by simp, fun _ => rfl⟩
  | telemetry => exact ⟨_, [], by rw [List.append_nil]; exact frameTlm_of_le h, fun _ => rfl, fun hne => absurd rfl hne⟩

/-- Settles O57: the frame held is within the bound and holds its own CRC. -/
theorem acceptedFramesAreEncodable : Obligations.AcceptedFramesAreEncodable := by
  intro s hc hr
  obtain ⟨-, -, -, -, -, hacc, -⟩ := hc
  obtain ⟨hlen, hcrc, -⟩ := hacc hr
  rw [hcrc]
  exact exists_frameOf _ hlen

/-! ### The step that ends a decode (R175) -/

theorem onStart_finishOf {b : Byte} {s : State} (h : (onStart b s).rxPhase = .idle) : FinishOf s (onStart b s) := by
  have hbad : FinishOf s (finish .badStart s) := finish_finishOf (by simp) (by simp) (by simp) s
  cases hv : s.rxVariant with
  | simple =>
    simp only [onStart, hv] at h ⊢
    split at h
    · cases h
    next hb => rwa [if_neg hb]
  | extended =>
    simp only [onStart, hv] at h ⊢
    split at h
    · cases h
    next hb =>
      split at h
      · cases h
      next hb' => rwa [if_neg hb, if_neg hb']
  | telemetry =>
    simp only [onStart, hv] at h
    cases h

/-- A byte step after which the decoder is idle has finished, whatever the phase. -/
theorem onByte_finishOf {b : Byte} {s t : State} (h : onByte b s = .next t) (harmed : s.rxPhase ≠ .idle)
    (hidle : t.rxPhase = .idle) : FinishOf s t := by
  unfold onByte at h
  split at h
  case h_1 hp => exact absurd hp harmed
  case h_2 => cases h; exact onStart_finishOf hidle
  case h_3 => cases h; exact absurd hidle (afterLength_ne_idle _)
  case h_4 | h_7 => cases h; cases hidle
  case h_5 => cases h; exact absurd hidle (afterLength_ne_idle _)
  case h_6 hp =>
    cases h
    simp only [onData, hp] at hidle
    split at hidle <;> cases hidle
  case h_8 =>
    simp only [onCrcl] at h
    split at h
    · exact judge_next (s := { s with rxCrc := s.rxCrc ||| zext16 b }) h
    · cases h; cases hidle
    · cases h; cases hidle
  case h_9 => exact judge_next (s := { s with rxEnd := b }) h

/-- A step of the decoder's own, or of the timer, that ends a decode has finished it. -/
theorem decoderStep_finishOf {s t : State} (h : decoderStep s = .next t) (harmed : s.rxPhase ≠ .idle)
    (hidle : t.rxPhase = .idle) : ∃ q, FinishOf { s with rxQueue := q } t := by
  by_cases hl : s.linkOpen = true
  · rcases hq : s.rxQueue with _ | ⟨b, q⟩
    · cases (decoderStep_waiting hl hq).symm.trans h
      exact absurd hidle harmed
    · rw [decoderStep_take harmed hl hq] at h
      exact ⟨q, onByte_finishOf h harmed hidle⟩
  · cases (decoderStep_closed harmed (Bool.eq_false_iff.2 hl)).symm.trans h
    exact ⟨s.rxQueue, finish_finishOf (r := .linkError) (by simp) (by simp) (by simp) s⟩

theorem timeoutStep_finishOf {s : State} (harmed : s.rxPhase ≠ .idle) (hidle : (timeoutStep s).rxPhase = .idle) :
    FinishOf s (timeoutStep s) := by
  obtain h | ⟨-, h⟩ := timeoutStep_cases s <;> rw [h] at hidle ⊢
  · exact absurd hidle harmed
  · exact finish_finishOf (by split <;> simp) (by split <;> simp) (by split <;> simp) s

/-- The host and the link leave an armed decoder where it is. -/
theorem eventStep_undisturbed {ev : Event} {s t : State} (h : eventStep ev s = .next t) (harmed : s.rxPhase ≠ .idle)
    (hdec : ev ≠ .decoder) (htime : ev ≠ .timeout) (hreset : ev ≠ .reset) :
    t.rxPhase = s.rxPhase ∧ t.rxLen = s.rxLen ∧ t.rxData = s.rxData := by
  cases ev with
  | host request =>
    obtain ⟨i, -, hexec⟩ | ⟨op, args, -, -, rfl⟩ := hostStep_cases h
    · obtain ⟨⟨hp, -, -, -, -, -, hlen, hdata, -⟩, -⟩ | ⟨hidle, -⟩ := exec_cases hexec
      · exact ⟨hp.symm, hlen.symm, hdata.symm⟩
      · exact absurd hidle harmed
    · exact ⟨rfl, rfl, rfl⟩
  | decoder => exact absurd rfl hdec
  | timeout => exact absurd rfl htime
  | reset => exact absurd rfl hreset
  | linkByte b =>
    cases h
    unfold linkByteStep
    split <;> exact ⟨rfl, rfl, rfl⟩
  | linkOpen | linkClose | drawWrite w => cases h; exact ⟨rfl, rfl, rfl⟩

theorem eventStep_finishOf {ev : Event} {s t : State} (h : eventStep ev s = .next t) (hreset : ev ≠ .reset)
    (harmed : s.rxPhase ≠ .idle) (hidle : t.rxPhase = .idle) : ∃ q, FinishOf { s with rxQueue := q } t := by
  by_cases hdec : ev = .decoder
  · subst hdec
    exact decoderStep_finishOf h harmed hidle
  by_cases htime : ev = .timeout
  · subst htime
    cases h
    exact ⟨s.rxQueue, timeoutStep_finishOf harmed hidle⟩
  · obtain ⟨hp, -⟩ := eventStep_undisturbed h harmed hdec htime hreset
    exact absurd (hp.symm.trans hidle) harmed

/-- Settles O41: the step is a finish, which writes what it names and no more. -/
theorem finishClearsThePartialFields : Obligations.FinishClearsThePartialFields := by
  intro s t h harmed hidle hreset
  rw [step_eq_eventStep] at h
  have hne : s.schedule.headD .decoder ≠ .reset := by
    intro hev
    obtain ⟨rest, hs⟩ := exists_schedule_of_headD hev (by simp)
    exact hreset rest hs
  obtain ⟨q, r, f, rfl, hnone, hpending, hclear⟩ := eventStep_finishOf h hne harmed hidle
  exact ⟨hnone, hpending, hclear, rfl, rfl, rfl, rfl, rfl, rfl, rfl, rfl, rfl⟩

/-! ### How many bytes a decode still takes (R84, R176) -/

/-- How many bytes follow the last body or payload byte: the CRC, and END where the variant has one (R71 to R74). -/
def trailerLength (v : Variant) : Nat := if v = .telemetry then 2 else 3

/-- How many bytes the decode in progress takes from now on, where the queue's leading bytes say so: R176's extent,
carried on to the later phases. -/
def bytesLeft (s : State) : Option Nat :=
  match s.rxPhase with
  | .idle => some 0
  | .start => decodeExtent s.rxVariant s.rxQueue
  | .len1 => s.rxQueue.head?.map fun len => len.toNat + 4
  | .lenh =>
    match s.rxQueue with
    | hi :: lo :: _ => some (hi.toNat * 256 + lo.toNat + 2 + trailerLength s.rxVariant)
    | _ => none
  | .lenl => s.rxQueue.head?.map fun lo =>
      (s.rxLenbytes.headD 0x00#8).toNat * 256 + lo.toNat + 1 + trailerLength s.rxVariant
  | .data => some (s.rxLen.toNat - s.rxData.length + trailerLength s.rxVariant)
  | .crch => some (trailerLength s.rxVariant)
  | .crcl => some (trailerLength s.rxVariant - 1)
  | .endByte => some 1

/-- At most how many bytes a decode takes from now on, whatever they are. -/
def takesLeft (s : State) : Nat :=
  match s.rxPhase with
  | .idle => 0
  | .start => 65541
  | .len1 => 259
  | .lenh => 65540
  | .lenl => 65539
  | .data => s.rxLen.toNat - s.rxData.length + 3
  | .crch => 3
  | .crcl => 2
  | .endByte => 1

theorem takesLeft_le (s : State) : takesLeft s ≤ 65541 := by
  have := s.rxLen.isLt
  unfold takesLeft
  split <;> omega

theorem takesLeft_idle {s : State} (h : s.rxPhase = .idle) : takesLeft s = 0 := by
  simp only [takesLeft, h]

theorem takesLeft_pos {s : State} (h : s.rxPhase ≠ .idle) : 0 < takesLeft s := by
  unfold takesLeft
  split
  next hp => exact absurd hp h
  all_goals omega

theorem takesLeft_afterLength {s : State} (hp : s.rxPhase = afterLength s.rxLen) (hdata : s.rxData = []) :
    takesLeft s = s.rxLen.toNat + 3 := by
  unfold afterLength at hp
  split at hp
  next h0 => simp only [takesLeft, hp, h0, BitVec.toNat_zero, Nat.zero_add]
  next h0 => simp only [takesLeft, hp, hdata, List.length_nil, Nat.sub_zero]

theorem bytesLeft_afterLength {s : State} (hp : s.rxPhase = afterLength s.rxLen) (hdata : s.rxData = []) :
    bytesLeft s = some (s.rxLen.toNat + trailerLength s.rxVariant) := by
  unfold afterLength at hp
  split at hp
  next h0 => simp only [bytesLeft, hp, h0, BitVec.toNat_zero, Nat.zero_add]
  next h0 => simp only [bytesLeft, hp, hdata, List.length_nil, Nat.sub_zero]

/-- The extent is one byte, or a whole frame's length. -/
theorem decodeExtent_bounds {v : Variant} {x : List Byte} {n : Nat} (h : decodeExtent v x = some n) :
    n = 1 ∨ 5 ≤ n ∧ n ≤ 65541 := by
  unfold decodeExtent at h
  repeat' split at h
  all_goals cases h
  all_goals omega

theorem two_le_trailerLength (v : Variant) : 2 ≤ trailerLength v := by
  unfold trailerLength
  split <;> omega

theorem bytesLeft_idle {s : State} (h : s.rxPhase = .idle) : bytesLeft s = some 0 := by
  simp only [bytesLeft, h]

theorem bytesLeft_pos {s : State} {n : Nat} (harmed : s.rxPhase ≠ .idle) (h : bytesLeft s = some n) : 0 < n := by
  have htrailer := two_le_trailerLength s.rxVariant
  cases hp : s.rxPhase <;> simp only [bytesLeft, hp] at h
  case idle => exact absurd hp harmed
  case start => obtain rfl | ⟨hn, -⟩ := decodeExtent_bounds h <;> omega
  case len1 | lenl =>
    obtain ⟨b, -, rfl⟩ := Option.map_eq_some_iff.1 h
    omega
  case lenh =>
    split at h <;> cases h
    omega
  all_goals cases h; omega

theorem Taken.takesLeft_lt {s t : State} {b : Byte} {q : List Byte} (h : Taken s b q t) (hc : Consistent s) :
    takesLeft t < takesLeft s := by
  obtain ⟨-, -, hphase⟩ := fields_of_consistent hc
  obtain ⟨-, -, hlen1, -, hlenl, hdata, -⟩ := (phaseFields_iff s).1 hphase
  cases h with
  | short hp | long hp | packetId hp | lenh hp | crch hp | crcl hp => simp [takesLeft, hp]
  | badStart hp => rw [takesLeft_idle rfl]; exact takesLeft_pos (by simp [hp])
  | rejected hlast | accepted hlast => rw [takesLeft_idle rfl]; exact takesLeft_pos hlast.armed
  | len1 hp =>
    obtain ⟨-, -, -, hd, -⟩ := hlen1 hp
    rw [takesLeft_afterLength rfl (by exact hd), zext16_toNat]
    have := b.isLt
    simp only [takesLeft, hp]
    omega
  | @lenl hp hi hhi =>
    obtain ⟨-, -, -, hd, -⟩ := hlenl hp
    rw [takesLeft_afterLength rfl (by exact hd)]
    have := (assemble hi b).isLt
    simp only [takesLeft, hp]
    omega
  | data hp =>
    obtain ⟨-, hlt, -⟩ := hdata hp
    have hbefore : takesLeft s = s.rxLen.toNat - s.rxData.length + 3 := by simp only [takesLeft, hp]
    rw [hbefore]
    by_cases hfull : s.rxData.length + 1 = s.rxLen.toNat
    · simp only [takesLeft, if_pos hfull]
      omega
    · simp only [takesLeft, if_neg hfull, List.length_append, List.length_singleton]
      omega

/-- A taken byte is one of the bytes called for.  The short header's length byte, and the two of the others, are read in
START already where they are queued. -/
theorem Taken.bytesLeft_eq {s t : State} {b : Byte} {q : List Byte} (h : Taken s b q t) (hc : Consistent s)
    (hq : s.rxQueue = b :: q) : bytesLeft s = (bytesLeft t).map (· + 1) := by
  obtain ⟨-, -, hphase⟩ := fields_of_consistent hc
  obtain ⟨-, -, hlen1, -, hlenl, hdata, -⟩ := (phaseFields_iff s).1 hphase
  cases h with
  | short hp hv hb =>
    cases hs : s.rxVariant
    case telemetry => exact absurd hs hv
    all_goals rcases q with _ | ⟨len, q⟩ <;> simp [bytesLeft, hp, hq, hs, hb, decodeExtent]
  | long hp hv hb =>
    rcases q with _ | ⟨hi, _ | ⟨lo, q⟩⟩ <;> simp [bytesLeft, hp, hq, hv, hb, decodeExtent, trailerLength]
  | packetId hp hv =>
    rcases q with _ | ⟨hi, _ | ⟨lo, q⟩⟩ <;> simp [bytesLeft, hp, hq, hv, decodeExtent, trailerLength]
  | badStart hp hb =>
    obtain ⟨hv, hb⟩ | ⟨hv, hb, hb'⟩ := hb <;> simp [bytesLeft, decodeExtent, finished, *]
  | len1 hp =>
    obtain ⟨hv, -, -, hd, -⟩ := hlen1 hp
    refine Eq.trans ?_ (congrArg (Option.map (· + 1)) (bytesLeft_afterLength rfl (by exact hd)).symm)
    simp [bytesLeft, hp, hq, zext16_toNat, trailerLength, hv]
  | lenh hp =>
    rcases q with _ | ⟨lo, q⟩ <;>
      simp only [bytesLeft, hp, hq, List.head?_nil, List.head?_cons, Option.map_none, Option.map_some, List.headD_cons,
        Option.some.injEq]
    omega
  | lenl hp hhi =>
    obtain ⟨-, -, -, hd, -⟩ := hlenl hp
    refine Eq.trans ?_ (congrArg (Option.map (· + 1)) (bytesLeft_afterLength rfl (by exact hd)).symm)
    simp only [bytesLeft, hp, hq, hhi, assemble_toNat, List.head?_cons, Option.map_some, List.headD_cons,
      Option.some.injEq]
    omega
  | data hp =>
    obtain ⟨-, hlt, -⟩ := hdata hp
    by_cases hfull : s.rxData.length + 1 = s.rxLen.toNat
    · simp only [bytesLeft, hp, if_pos hfull, Option.map_some, Option.some.injEq]
      omega
    · simp only [bytesLeft, hp, if_neg hfull, List.length_append, List.length_singleton, Option.map_some,
        Option.some.injEq]
      omega
  | crch hp =>
    have htrailer := two_le_trailerLength s.rxVariant
    simp only [bytesLeft, hp, Option.map_some, Option.some.injEq]
    omega
  | crcl hp hv => simp [bytesLeft, hp, trailerLength, hv]
  | rejected hlast | accepted hlast =>
    obtain ⟨hp, hv⟩ | ⟨hp, -⟩ := hlast
    · simp [bytesLeft, hp, hv, trailerLength, finished]
    · simp [bytesLeft, hp, finished]

/-! ### Whole decodes from the queue alone (R176, R177) -/

theorem Taken.variant {s t : State} {b : Byte} {q : List Byte} (h : Taken s b q t) : t.rxVariant = s.rxVariant := by
  cases h <;> rfl

theorem Taken.schedule_and_link {s t : State} {b : Byte} {q : List Byte} (h : Taken s b q t) :
    t.schedule = s.schedule ∧ t.linkOpen = s.linkOpen := by
  cases h <;> exact ⟨rfl, rfl⟩

/-- START is left with the first byte. -/
theorem Taken.started {s t : State} {b : Byte} {q : List Byte} (h : Taken s b q t) : t.rxPhase ≠ .start := by
  cases h with
  | len1 | lenl => simp only [afterLength]; split <;> simp
  | data => simp only; split <;> simp
  | short | long | packetId | lenh | crch | crcl | badStart | rejected | accepted => simp [finished]

/-- The byte that ends a decode is an illegal leading byte or is judged. -/
theorem Taken.result {s t : State} {b : Byte} {q : List Byte} (h : Taken s b q t) (hidle : t.rxPhase = .idle) :
    s.rxPhase = .start ∧ t.rxResult = .badStart ∨ s.rxPhase ≠ .start ∧ Judged s.rxVariant t.rxResult := by
  cases h with
  | badStart hp => exact .inl ⟨hp, rfl⟩
  | rejected hlast hr => exact .inr ⟨hlast.started, hr⟩
  | accepted hlast => exact .inr ⟨hlast.started, .inl (by simp [finished])⟩
  | len1 | lenl => exact absurd hidle (afterLength_ne_idle _)
  | data => simp only at hidle; split at hidle <;> cases hidle
  | short | long | packetId | lenh | crch | crcl => cases hidle

/-- A decode in progress on an open link, with nothing else scheduled. -/
structure Decoding (s : State) : Prop where
  schedule : s.schedule = []
  linkOpen : s.linkOpen = true
  consistent : Consistent s

/-- While bytes are called for and queued, a run begins with a take. -/
theorem Decoding.exists_run_succ {s : State} {b : Byte} {q : List Byte} (h : Decoding s) (harmed : s.rxPhase ≠ .idle)
    (hq : s.rxQueue = b :: q) :
    ∃ t, Taken s b q t ∧ Decoding t ∧ bytesLeft s = (bytesLeft t).map (· + 1) ∧ ∀ n, run (n + 1) s = run n t := by
  obtain ⟨t, hstep, htaken⟩ := exists_taken h.consistent harmed h.linkOpen hq
  obtain ⟨hsched, hlink⟩ := htaken.schedule_and_link
  exact ⟨t, htaken, ⟨hsched.trans h.schedule, hlink.trans h.linkOpen, htaken.consistent h.consistent h.linkOpen⟩,
    htaken.bytesLeft_eq h.consistent hq, fun n => FramerRx.run_succ_of_decoderStep h.schedule hstep⟩

/-- While it has bytes to take a decoder is armed. -/
theorem armed_of_bytesLeft {n : Nat} {s : State} (h : bytesLeft s = some n) (hn : 0 < n) : s.rxPhase ≠ .idle := by
  intro hidle
  rw [bytesLeft_idle hidle, Option.some.injEq] at h
  omega

/-- Until its last byte a decode stays armed and takes a byte a step. -/
theorem Decoding.run_armed {n m : Nat} {s : State} (h : Decoding s) (hn : bytesLeft s = some n)
    (hlen : n ≤ s.rxQueue.length) (hm : m < n) :
    ∃ u, run m s = .next u ∧ u.rxPhase ≠ .idle ∧ u.rxQueue = s.rxQueue.drop m := by
  induction m generalizing n s with
  | zero => exact ⟨s, rfl, armed_of_bytesLeft hn hm, rfl⟩
  | succ m ih =>
    obtain ⟨b, q, hq⟩ := List.exists_cons_of_length_pos (l := s.rxQueue) (by omega)
    obtain ⟨t, htaken, ht, hleft, hrun⟩ := h.exists_run_succ (armed_of_bytesLeft hn (by omega)) hq
    obtain ⟨k, hk, rfl⟩ := Option.map_eq_some_iff.1 (hleft.symm.trans hn)
    have htq := htaken.rxQueue
    rw [hq, List.length_cons] at hlen
    obtain ⟨u, hu, hua, huq⟩ := ih ht hk (by rw [htq]; omega) (by omega)
    exact ⟨u, (hrun m).trans hu, hua, by rw [huq, htq, hq]; rfl⟩

/-- With its last byte a decode is idle, and has ended as `Taken.result` says. -/
theorem Decoding.run_ends {n : Nat} {s : State} (h : Decoding s) (hn : bytesLeft s = some n)
    (hlen : n ≤ s.rxQueue.length) :
    ∃ t, run n s = .next t ∧ t.rxPhase = .idle ∧ t.rxQueue = s.rxQueue.drop n ∧
      (s.rxPhase = .start ∧ n = 1 → t.rxResult = .badStart) ∧
      (s.rxPhase ≠ .idle → ¬(s.rxPhase = .start ∧ n = 1) → Judged s.rxVariant t.rxResult) := by
  induction n generalizing s with
  | zero =>
    have hidle : s.rxPhase = .idle := by
      by_contra harmed
      exact absurd (bytesLeft_pos harmed hn) (by simp)
    exact ⟨s, rfl, hidle, rfl, by simp, fun harmed => absurd hidle harmed⟩
  | succ n ih =>
    have harmed := armed_of_bytesLeft hn (Nat.succ_pos n)
    obtain ⟨b, q, hq⟩ := List.exists_cons_of_length_pos (l := s.rxQueue) (by omega)
    obtain ⟨t, htaken, ht, hleft, hrun⟩ := h.exists_run_succ harmed hq
    have hk : bytesLeft t = some n := by
      obtain ⟨k, hk, hkn⟩ := Option.map_eq_some_iff.1 (hleft.symm.trans hn)
      rwa [Nat.succ.inj hkn] at hk
    have htq := htaken.rxQueue
    rw [hq, List.length_cons] at hlen
    obtain ⟨w, hw, hidle, hwq, -, hjudged⟩ := ih ht hk (by rw [htq]; omega)
    refine ⟨w, (hrun n).trans hw, hidle, by rw [hwq, htq, hq]; rfl, ?_⟩
    by_cases hlast : t.rxPhase = .idle
    · obtain rfl : 0 = n := Option.some.inj ((bytesLeft_idle hlast).symm.trans hk)
      cases hw
      obtain ⟨hp, hbad⟩ | ⟨hp, hres⟩ := htaken.result hidle
      · exact ⟨fun _ => hbad, fun _ hnot => absurd ⟨hp, rfl⟩ hnot⟩
      · exact ⟨fun h => absurd h.1 hp, fun _ _ => hres⟩
    · have := bytesLeft_pos hlast hk
      refine ⟨fun h => absurd h.2 (by omega), fun _ _ => ?_⟩
      rw [← htaken.variant]
      exact hjudged hlast fun h => htaken.started h.1

theorem decodeExtent_telemetry_ne_one (x : List Byte) : decodeExtent .telemetry x ≠ some 1 := by
  rcases x with _ | ⟨id, _ | ⟨hi, _ | ⟨lo, x⟩⟩⟩ <;> simp [decodeExtent]

theorem Judged.mem {v : Variant} {r : RxResult} (h : Judged v r) :
    r ∈ [RxResult.frame, .badEnd, .emptyBody, .badCrc, .unexpectedId] := by
  obtain hr | ⟨-, hr⟩ := h <;> simp only [List.mem_cons, List.not_mem_nil, or_false] at hr
  · obtain rfl | rfl | rfl := hr <;> decide
  · obtain rfl | rfl := hr <;> decide

/-- Settles O44: the extent is `bytesLeft` in START. -/
theorem decodeTakesExactlyItsExtent : Obligations.DecodeTakesExactlyItsExtent := by
  intro s n hc hs hl hp hext hlen
  have h : Decoding s := ⟨hs, hl, hc⟩
  have hn : bytesLeft s = some n := by simpa only [bytesLeft, hp] using hext
  obtain ⟨t, hrun, hidle, hq, hbad, hjudged⟩ := h.run_ends hn hlen
  have hbound := decodeExtent_bounds hext
  refine ⟨by omega, fun m => h.run_armed hn hlen, t, hrun, hidle, hq, fun h1 => hbad ⟨hp, h1⟩, fun h1 => ?_,
    fun hv => ?_⟩
  · exact (hjudged (by simp [hp]) fun h => h1 h.2).mem
  · have hne : n ≠ 1 := by
      rintro rfl
      rw [hv] at hext
      exact decodeExtent_telemetry_ne_one _ hext
    exact (hjudged (by simp [hp]) fun h => hne h.2).resolve_right fun h => h.1 hv

/-- With too few bytes queued a decode takes them all and is still armed, in START if there were none. -/
theorem Decoding.run_short {s : State} (h : Decoding s) (hshort : ∀ n, bytesLeft s = some n → s.rxQueue.length < n) :
    ∃ u, run s.rxQueue.length s = .next u ∧ Decoding u ∧ u.rxPhase ≠ .idle ∧ u.rxQueue = [] ∧
      (u.rxPhase = .start ↔ s.rxPhase = .start ∧ s.rxQueue = []) := by
  have harmed : s.rxPhase ≠ .idle := by
    intro hidle
    exact absurd (hshort 0 (bytesLeft_idle hidle)) (by simp)
  cases hq : s.rxQueue with
  | nil => exact ⟨s, rfl, h, harmed, hq, by simp⟩
  | cons b q =>
    obtain ⟨t, htaken, ht, hleft, hrun⟩ := h.exists_run_succ harmed hq
    have htq := htaken.rxQueue
    obtain ⟨u, hu, hdec, hua, huq, hstart⟩ := ht.run_short fun n hn => by
      have := hshort (n + 1) (by rw [hleft, hn]; rfl)
      rw [hq, List.length_cons] at this
      rw [htq]
      omega
    rw [htq] at hu
    exact ⟨u, (hrun _).trans hu, hdec, hua, huq, by simp [hstart, htaken.started]⟩
termination_by s.rxQueue.length
decreasing_by rw [hq, htaken.rxQueue]; simp

/-- Settles O45: the decoder then waits, and the timeout finishes it by its phase. -/
theorem shortStreamEndsInTimeout : Obligations.ShortStreamEndsInTimeout := by
  intro s hc hs hl hp hshort
  obtain ⟨u, hrun, hdec, harmed, hq, hstart⟩ := Decoding.run_short ⟨hs, hl, hc⟩ (s := s)
    (by simpa only [bytesLeft, hp] using hshort)
  have hstep : step u = .next u := (step_unscheduled hdec.schedule).trans (decoderStep_waiting hdec.linkOpen hq)
  refine ⟨u, hrun, harmed, hq, hstep, timeoutStep { u with schedule := [] }, rfl, ?_⟩
  have hw : State.waiting { u with schedule := [] } = true := waiting_iff.2 ⟨harmed, hdec.linkOpen, hq⟩
  rw [timeoutStep_of_waiting hw]
  refine ⟨rfl, ?_⟩
  simp [finished, hstart, hp]

/-! ### The model's fair decoder and `rx.wait` (log 12) -/

/-- A step of the fair decoder brings an armed decoder nearer to its end. -/
theorem exists_fairDecoderStep {s : State} (hc : Consistent s) (harmed : s.rxPhase ≠ .idle) :
    ∃ t, fairDecoderStep s = .next t ∧ Consistent t ∧ takesLeft t < takesLeft s := by
  by_cases hw : s.waiting = true
  · refine ⟨timeoutStep s, by rw [fairDecoderStep, if_pos hw], consistent_timeoutStep hc, ?_⟩
    rw [timeoutStep_of_waiting hw, takesLeft_idle rfl]
    exact takesLeft_pos harmed
  · rw [fairDecoderStep, if_neg hw]
    obtain ⟨t, ht, hct⟩ := exists_consistent_decoderStep hc
    refine ⟨t, ht, hct, ?_⟩
    obtain ⟨hoff, -⟩ | ⟨-, h⟩ | ⟨-, b, q, u, -, h, htaken⟩ := decoderStep_cases hc
    · exact absurd hoff (not_or.2 ⟨harmed, hw⟩)
    · cases h.symm.trans ht
      rw [takesLeft_idle rfl]
      exact takesLeft_pos harmed
    · cases h.symm.trans ht
      exact htaken.takesLeft_lt hc

theorem rxResult_of_idle {s : State} (hc : Consistent s) (hidle : s.rxPhase = .idle) : s.rxResult ≠ .pending := by
  obtain ⟨-, -, -, hpend, -⟩ := hc
  exact fun h => hpend.1 h hidle

/-- The fair decoder is idle after no more steps than `takesLeft`. -/
theorem exists_repeatStep_fairDecoderStep (s : State) (hc : Consistent s) :
    ∃ n t, n ≤ takesLeft s ∧ repeatStep fairDecoderStep n s = .next t ∧ Consistent t ∧ t.rxPhase = .idle := by
  by_cases hp : s.rxPhase = .idle
  · exact ⟨0, s, Nat.zero_le _, rfl, hc, hp⟩
  · obtain ⟨u, hu, hcu, hlt⟩ := exists_fairDecoderStep hc hp
    obtain ⟨n, t, hn, ht, hct, hidle⟩ := exists_repeatStep_fairDecoderStep u hcu
    exact ⟨n + 1, t, by omega, by rw [repeatStep, hu, andThen_next, ht], hct, hidle⟩
termination_by takesLeft s

theorem run_of_waiting {s : State} (hw : s.waiting = true) (hs : s.schedule = []) (n : Nat) : run n s = .next s := by
  obtain ⟨-, hl, hq⟩ := waiting_iff.1 hw
  induction n with
  | zero => rfl
  | succ n ih => rw [FramerRx.run_succ_of_decoderStep hs (decoderStep_waiting hl hq), ih]

/-- Settles O49: by the bound on the takes; a waiting decoder's own step is none. -/
theorem fairDecodeFinishes : Obligations.FairDecodeFinishes := by
  refine ⟨fun s hc _ => ?_, fun s n hw hs => run_of_waiting hw hs n⟩
  obtain ⟨n, t, hn, ht, hct, hidle⟩ := exists_repeatStep_fairDecoderStep s hc
  have := takesLeft_le s
  exact ⟨n, t, by omega, ht, hidle, rxResult_of_idle hct hidle⟩

/-- The host has been told IDLE by an RX_STATUS exactly where the decoder is. -/
theorem toldIdle_respond_report (s : State) (r : BitVec 4) (f : Frame) :
    (s.respond (.report s.rxPhase.code r f)).toldIdle = true ↔ s.rxPhase = .idle := by
  simp only [State.toldIdle, State.respond_responses, List.getLast?_append, List.getLast?_singleton, Option.some_or,
    decide_eq_true_eq]
  cases s.rxPhase <;> decide

/-- What RX_STATUS leaves. -/
def told (s : State) : State := s.respond (.report s.rxPhase.code s.rxResult.code s.rxFrame)

theorem exists_rxWait (s : State) (hc : Consistent s) :
    ∃ n t, n ≤ takesLeft s ∧ rxWait n s = .next t ∧ t.rxPhase = .idle ∧
      ∃ result, t.responses.getLast? = some (.report 0 result t.rxFrame) := by
  by_cases hp : s.rxPhase = .idle
  · refine ⟨0, told s, Nat.zero_le _, rfl, hp, s.rxResult.code, ?_⟩
    simp [told, hp, RxPhase.code]
  · obtain ⟨u, hu, hcu, hlt⟩ := exists_fairDecoderStep (s := told s) hc hp
    obtain ⟨n, t, hn, ht, hidle⟩ := exists_rxWait u hcu
    have hlt' : takesLeft u < takesLeft s := hlt
    refine ⟨n + 1, t, by omega, ?_, hidle⟩
    have htold : ¬ (told s).toldIdle = true := fun h => hp ((toldIdle_respond_report s _ _).1 h)
    calc rxWait (n + 1) s
      _ = (if (told s).toldIdle then .next (told s) else andThen (fairDecoderStep (told s)) (rxWait n)) := rfl
      _ = .next t := by rw [if_neg htold, hu, andThen_next, ht]
termination_by takesLeft s

/-- Settles O50: by the bound on the takes, with an RX_STATUS before each step of the fair decoder. -/
theorem rxWaitEndsWithIdle : Obligations.RxWaitEndsWithIdle := by
  intro s hc
  obtain ⟨n, t, hn, h⟩ := exists_rxWait s hc
  have := takesLeft_le s
  exact ⟨n, t, by omega, h⟩

/-! ### One step of a run, as the decode sees it (R161) -/

theorem isTake_iff {ev : Event} {s : State} : isTake ev s = true ↔ ev = .decoder ∧ s.canTake = true := by
  simp [isTake]

theorem isDecodeStep_iff {ev : Event} {s : State} :
    isDecodeStep ev s = true ↔
      ev = .decoder ∧ s.canTake = true ∨ ev = .decoder ∧ s.cutOff = true ∨ ev = .timeout ∧ s.waiting = true := by
  simp [isDecodeStep, isTake_iff, or_assoc]

theorem isDecodeStep_of_isTake {ev : Event} {s : State} (h : isTake ev s = true) : isDecodeStep ev s = true :=
  isDecodeStep_iff.2 (.inl (isTake_iff.1 h))

/-- The three kinds of step of an armed decoder exclude each other. -/
theorem waiting_excludes {s : State} (h : s.waiting = true) : s.canTake = false ∧ s.cutOff = false := by
  obtain ⟨-, hl, hq⟩ := waiting_iff.1 h
  simp [State.canTake, State.cutOff, hl, hq]

theorem cutOff_excludes {s : State} (h : s.cutOff = true) : s.canTake = false := by
  obtain ⟨-, hl⟩ := cutOff_iff.1 h
  simp [State.canTake, hl]

/-- A step other than RESET takes an armed decoder nearer to its end, or ends the decode, or leaves it where it is. -/
theorem eventStep_progress {ev : Event} {s t : State} (hc : Consistent s) (harmed : s.rxPhase ≠ .idle)
    (h : eventStep ev s = .next t) (hreset : ev ≠ .reset) :
    isTake ev s = true ∧ takesLeft t < takesLeft s ∨
    isTake ev s = false ∧ isDecodeStep ev s = true ∧ t.rxPhase = .idle ∨
    isDecodeStep ev s = false ∧ t.rxPhase ≠ .idle ∧ takesLeft t = takesLeft s := by
  by_cases hdec : ev = .decoder
  · subst hdec
    obtain ⟨hoff, hstep⟩ | ⟨hcut, hstep⟩ | ⟨htake, b, q, u, -, hstep, htaken⟩ := decoderStep_cases hc <;>
      cases hstep.symm.trans h
    · obtain ⟨hnotake, hnocut⟩ := waiting_excludes (hoff.resolve_left harmed)
      exact .inr (.inr ⟨by simp [isDecodeStep, isTake, hnotake, hnocut], harmed, rfl⟩)
    · exact .inr (.inl ⟨by simp [isTake, cutOff_excludes hcut], isDecodeStep_iff.2 (.inr (.inl ⟨rfl, hcut⟩)), rfl⟩)
    · exact .inl ⟨isTake_iff.2 ⟨rfl, htake⟩, htaken.takesLeft_lt hc⟩
  by_cases htime : ev = .timeout
  · subst htime
    cases h
    by_cases hw : s.waiting = true
    · rw [timeoutStep_of_waiting hw]
      exact .inr (.inl ⟨by simp [isTake], isDecodeStep_iff.2 (.inr (.inr ⟨rfl, hw⟩)), rfl⟩)
    · rw [timeoutStep_of_not_waiting hw]
      exact .inr (.inr ⟨by simp [isDecodeStep, isTake, hw], harmed, rfl⟩)
  · obtain ⟨hp, hlen, hdata⟩ := eventStep_undisturbed h harmed hdec htime hreset
    exact .inr (.inr ⟨by simp [isDecodeStep, isTake, hdec, htime], by rwa [hp],
      by simp only [takesLeft, hp, hlen, hdata]⟩)

/-- The host touches neither the link nor the queue (R39). -/
theorem hostStep_link {request : List Byte} {s t : State} (h : hostStep request s = .next t) :
    t.linkOpen = s.linkOpen ∧ t.rxQueue = s.rxQueue := by
  obtain ⟨i, -, hexec⟩ | ⟨op, args, -, -, rfl⟩ := hostStep_cases h
  · obtain ⟨hsame, -⟩ | ⟨hidle, v, en, id, rfl⟩ := exec_cases hexec
    · obtain ⟨-, -, -, -, -, -, -, -, -, -, -, -, hlink, hqueue⟩ := hsame
      exact ⟨hlink.symm, hqueue.symm⟩
    · rw [arm_idle hidle]
      exact ⟨rfl, rfl⟩
  · exact ⟨rfl, rfl⟩

/-- An open link stays open up to its next close. -/
theorem eventStep_linkOpen {ev : Event} {s t : State} (h : eventStep ev s = .next t) (hclose : ev ≠ .linkClose)
    (hl : s.linkOpen = true) : t.linkOpen = true := by
  cases ev with
  | host request =>
    obtain ⟨hlink, -⟩ := hostStep_link h
    rwa [hlink]
  | decoder =>
    obtain ⟨-, hlink, -⟩ := decoderStep_elsewhere h
    rwa [hlink]
  | timeout =>
    cases h
    obtain ⟨-, hlink, -⟩ := timeoutStep_elsewhere s
    rwa [hlink]
  | linkClose => exact absurd rfl hclose
  | linkByte b => cases h; rwa [linkByteStep_open b hl]
  | linkOpen => cases h; rfl
  | drawWrite w | reset => cases h; exact hl

/-- Queued bytes stay queued up to the next take or close. -/
theorem eventStep_rxQueue {ev : Event} {s t : State} (h : eventStep ev s = .next t) (hclose : ev ≠ .linkClose)
    (htake : isTake ev s = false) (hq : s.rxQueue ≠ []) : t.rxQueue ≠ [] := by
  cases ev with
  | host request =>
    obtain ⟨-, hqueue⟩ := hostStep_link h
    rwa [hqueue]
  | decoder =>
    by_cases hp : s.rxPhase = .idle
    · cases (decoderStep_idle hp).symm.trans h
      exact hq
    · have hl : s.linkOpen = false := by
        by_contra hl
        exact absurd (isTake_iff.2 ⟨rfl, canTake_iff.2 ⟨hp, Bool.eq_true_of_not_eq_false hl, hq⟩⟩) (by simp [htake])
      cases (decoderStep_closed hp hl).symm.trans h
      exact hq
  | timeout =>
    cases h
    obtain ⟨-, -, hqueue⟩ := timeoutStep_elsewhere s
    rwa [hqueue]
  | linkClose => exact absurd rfl hclose
  | linkByte b =>
    cases h
    unfold linkByteStep
    split
    · simp
    · exact hq
  | linkOpen | drawWrite w | reset => cases h; exact hq

theorem eventStep_reset {s t : State} (h : eventStep .reset s = .next t) :
    t.rxPhase = .idle ∧ t.rxResult = .none := by
  cases h
  exact ⟨rfl, rfl⟩

/-- An idle decoder stays idle while the host only asks for its status. -/
theorem eventStep_idle {ev : Event} {s t : State} (h : eventStep ev s = .next t) (hidle : s.rxPhase = .idle)
    (hhost : ∀ request, ev = .host request → request = encode .rxStatus) : t.rxPhase = .idle := by
  cases ev with
  | host request =>
    obtain rfl := hhost request rfl
    rw [Crc.eventStep_encode, FramerRx.exec_rxStatus] at h
    cases h
    exact hidle
  | decoder =>
    cases (decoderStep_idle hidle).symm.trans h
    exact hidle
  | timeout =>
    cases h
    rwa [timeoutStep_of_not_waiting (by simp [waiting_iff, hidle])]
  | linkByte b =>
    cases h
    unfold linkByteStep
    split <;> exact hidle
  | reset => exact (eventStep_reset h).1
  | linkOpen | linkClose | drawWrite w => cases h; exact hidle

/-! ### Runs without end (R58, R179) -/

section Runs

variable {events : Nat → Event} {states : Nat → State} (hrun : IsRun events states)
include hrun

theorem consistent_of_isRun {n m : Nat} (hc : Consistent (states n)) (hm : n ≤ m) : Consistent (states m) := by
  induction m, hm using Nat.le_induction with
  | base => exact hc
  | succ m _ ih => exact consistent_eventStep (eventStep_of_isRun hrun m) ih

/-- What step `n` does to a decode, as `eventStep_progress` says; a step after which the decoder is still armed is no
RESET. -/
theorem progress_of_isRun {n : Nat} (hc : Consistent (states n)) (harmed : (states n).rxPhase ≠ .idle)
    (hreset : events n ≠ .reset) :
    isTake (events n) (states n) = true ∧ takesLeft (states (n + 1)) < takesLeft (states n) ∨
    isTake (events n) (states n) = false ∧ isDecodeStep (events n) (states n) = true ∧
      (states (n + 1)).rxPhase = .idle ∨
    isDecodeStep (events n) (states n) = false ∧ (states (n + 1)).rxPhase ≠ .idle ∧
      takesLeft (states (n + 1)) = takesLeft (states n) :=
  eventStep_progress (s := { states n with schedule := [] }) hc harmed (eventStep_of_isRun hrun n) hreset

theorem idle_of_isRun_reset {n : Nat} (h : events n = .reset) :
    (states (n + 1)).rxPhase = .idle ∧ (states (n + 1)).rxResult = .none := by
  have hstep := eventStep_of_isRun hrun n
  rw [h] at hstep
  exact eventStep_reset hstep

/-- While the decoder is armed, takes and `takesLeft` together do not grow. -/
theorem countSteps_isTake_le {n : Nat} (len : Nat) (hc : Consistent (states n))
    (harmed : ∀ k, k < len → (states (n + k)).rxPhase ≠ .idle) :
    countSteps isTake events states n len + takesLeft (states (n + len)) ≤ takesLeft (states n) := by
  induction len generalizing n with
  | zero => simp [countSteps_zero]
  | succ len ih =>
    have hrest := ih (n := n + 1) (consistent_of_isRun hrun hc (Nat.le_succ n)) fun k hk => by
      rw [Nat.add_right_comm]
      exact harmed (k + 1) (by omega)
    rw [countSteps_succ, ← Nat.add_assoc, Nat.add_right_comm n len 1]
    have hfirst :
        takesLeft (states (n + 1)) + (if isTake (events n) (states n) then 1 else 0) ≤ takesLeft (states n) := by
      by_cases hreset : events n = .reset
      · obtain ⟨hidle, -⟩ := idle_of_isRun_reset hrun hreset
        simp [hreset, isTake, takesLeft_idle hidle]
      · obtain ⟨htake, hlt⟩ | ⟨hno, -, hidle⟩ | ⟨hno, -, heq⟩ := progress_of_isRun hrun hc (harmed 0 (by omega)) hreset
        · rw [if_pos htake]
          exact hlt
        · simp [hno, takesLeft_idle hidle]
        · simp [mt isDecodeStep_of_isTake (Bool.eq_false_iff.1 hno), heq]
    omega

/-- While the decoder is armed, at most the last of the decode's own steps is no take. -/
theorem countSteps_isDecodeStep_le {n : Nat} (len : Nat) (hc : Consistent (states n))
    (harmed : ∀ k, k < len → (states (n + k)).rxPhase ≠ .idle) :
    countSteps isDecodeStep events states n len ≤ countSteps isTake events states n len + 1 := by
  induction len generalizing n with
  | zero => simp [countSteps_zero]
  | succ len ih =>
    have hrest := ih (n := n + 1) (consistent_of_isRun hrun hc (Nat.le_succ n)) fun k hk => by
      rw [Nat.add_right_comm]
      exact harmed (k + 1) (by omega)
    rw [countSteps_succ, countSteps_succ]
    by_cases htake : isTake (events n) (states n) = true
    · rw [if_pos htake, if_pos (isDecodeStep_of_isTake htake)]
      omega
    by_cases hdec : isDecodeStep (events n) (states n) = true
    · have hreset : events n ≠ .reset := by
        intro h
        simp [h, isDecodeStep, isTake] at hdec
      obtain ⟨h, -⟩ | ⟨-, -, hidle⟩ | ⟨h, -⟩ := progress_of_isRun hrun hc (harmed 0 (by omega)) hreset
      · exact absurd h htake
      · cases len with
        | zero => simp [countSteps_zero, hdec]
        | succ len => exact absurd hidle (harmed 1 (by omega))
      · exact absurd hdec (by simp [h])
    · rw [if_neg htake, if_neg hdec]
      omega

theorem linkOpen_of_isRun {n m : Nat} (hclose : ∀ k, n ≤ k → events k ≠ .linkClose) (hl : (states n).linkOpen = true)
    (hm : n ≤ m) : (states m).linkOpen = true := by
  induction m, hm using Nat.le_induction with
  | base => exact hl
  | succ m hm ih => exact eventStep_linkOpen (eventStep_of_isRun hrun m) (hclose m hm) ih

theorem rxQueue_of_isRun {n m : Nat} (hclose : ∀ k, n ≤ k → events k ≠ .linkClose)
    (hnotake : ∀ k, n ≤ k → isTake (events k) (states k) = false) (hq : (states n).rxQueue ≠ []) (hm : n ≤ m) :
    (states m).rxQueue ≠ [] := by
  induction m, hm using Nat.le_induction with
  | base => exact hq
  | succ m hm ih => exact eventStep_rxQueue (eventStep_of_isRun hrun m) (hclose m hm) (hnotake m hm) ih

/-- Where the link closes no more and the decoder is armed for good, fairness kind by kind brings one of the decode's
own steps: the kind that is enabled can only be left by such a step. -/
theorem exists_isDecodeStep_of_weaklyFair {n : Nat} (htake : WeaklyFair State.canTake .decoder events states)
    (hcut : WeaklyFair State.cutOff .decoder events states) (hwait : WeaklyFair State.waiting .timeout events states)
    (hclose : ∀ m, n ≤ m → events m ≠ .linkClose) (harmed : ∀ m, n ≤ m → (states m).rxPhase ≠ .idle) :
    ∃ m, n ≤ m ∧ isDecodeStep (events m) (states m) = true := by
  by_cases hopen : ∃ p, n ≤ p ∧ (states p).linkOpen = true
  · obtain ⟨p, hp, hl⟩ := hopen
    have hclose : ∀ m, p ≤ m → events m ≠ .linkClose := fun m hm => hclose m (by omega)
    have hlink : ∀ m, p ≤ m → (states m).linkOpen = true := fun m => linkOpen_of_isRun hrun hclose hl
    by_cases hqueue : ∃ r, p ≤ r ∧ (states r).rxQueue ≠ []
    · obtain ⟨r, hr, hq⟩ := hqueue
      by_contra hnone
      have hnotake : ∀ m, r ≤ m → isTake (events m) (states m) = false := fun m hm =>
        Bool.eq_false_iff.2 fun h => hnone ⟨m, by omega, isDecodeStep_of_isTake h⟩
      have hkeep : ∀ m, r ≤ m → (states m).canTake = true := fun m hm =>
        canTake_iff.2 ⟨harmed m (by omega), hlink m (by omega),
          rxQueue_of_isRun hrun (fun k hk => hclose k (by omega)) hnotake hq hm⟩
      obtain ⟨m, hm, hev⟩ := htake r hkeep
      exact hnone ⟨m, by omega, isDecodeStep_iff.2 (.inl ⟨hev, hkeep m hm⟩)⟩
    · simp only [not_exists, not_and, not_not] at hqueue
      have hkeep : ∀ m, p ≤ m → (states m).waiting = true := fun m hm =>
        waiting_iff.2 ⟨harmed m (by omega), hlink m hm, hqueue m hm⟩
      obtain ⟨m, hm, hev⟩ := hwait p hkeep
      exact ⟨m, by omega, isDecodeStep_iff.2 (.inr (.inr ⟨hev, hkeep m hm⟩))⟩
  · simp only [not_exists, not_and, Bool.not_eq_true] at hopen
    have hkeep : ∀ m, n ≤ m → (states m).cutOff = true := fun m hm => cutOff_iff.2 ⟨harmed m hm, hopen m hm⟩
    obtain ⟨m, hm, hev⟩ := hcut n hkeep
    exact ⟨m, hm, isDecodeStep_iff.2 (.inr (.inl ⟨hev, hkeep m hm⟩))⟩

end Runs

/-- The two readings of R179's fairness (log 16). -/
abbrev Fair (events : Nat → Event) (states : Nat → State) : Prop :=
  FairRun events states ∧ LinkSettles events ∨ JointlyFairRun events states

section FairRuns

variable {events : Nat → Event} {states : Nat → State} {n : Nat} (hfair : Fair events states)
include hfair

theorem Fair.isRun : IsRun events states := hfair.elim (fun h => h.1.1) fun h => h.1

/-- In both readings an armed decoder that stays armed comes to one of the decode's own steps. -/
theorem Fair.exists_isDecodeStep (harmed : ∀ m, n ≤ m → (states m).rxPhase ≠ .idle) :
    ∃ m, n ≤ m ∧ isDecodeStep (events m) (states m) = true := by
  obtain ⟨⟨hrun, htake, hcut, hwait⟩, p, hclose⟩ | ⟨-, hjoint⟩ := hfair
  · obtain ⟨m, hm, hdec⟩ := exists_isDecodeStep_of_weaklyFair hrun (n := max n p) htake hcut hwait
      (fun m hm => hclose m (by omega)) fun m hm => harmed m (by omega)
    exact ⟨m, by omega, hdec⟩
  · exact hjoint n fun m hm => armed_iff.2 (harmed m hm)

/-- Nobody stays armed for good: each of the decode's own steps takes it nearer to its end. -/
theorem Fair.exists_idle (n : Nat) (hc : Consistent (states n)) : ∃ m, n ≤ m ∧ (states m).rxPhase = .idle := by
  by_contra hnone
  simp only [not_exists, not_and] at hnone
  obtain ⟨m, hm, hdec⟩ := hfair.exists_isDecodeStep hnone
  have hcm := consistent_of_isRun hfair.isRun hc hm
  have hreset : events m ≠ .reset := fun h => hnone (m + 1) (by omega) (idle_of_isRun_reset hfair.isRun h).1
  have hlt : takesLeft (states (m + 1)) < takesLeft (states n) := by
    have hbefore := countSteps_isTake_le hfair.isRun (m - n) hc fun k _ => hnone (n + k) (by omega)
    rw [Nat.add_sub_cancel' hm] at hbefore
    obtain ⟨-, hlt⟩ | ⟨-, -, hidle⟩ | ⟨hno, -⟩ := progress_of_isRun hfair.isRun hcm (hnone m hm) hreset
    · omega
    · exact absurd hidle (hnone (m + 1) (by omega))
    · exact absurd hdec (by simp [hno])
  obtain ⟨k, hk, hidle⟩ := Fair.exists_idle (m + 1) (consistent_of_isRun hfair.isRun hc (by omega))
  exact hnone k (by omega) hidle
termination_by takesLeft (states n)

/-- The decode in progress at step `n` has a last step. -/
theorem Fair.exists_last (hc : Consistent (states n)) (harmed : (states n).rxPhase ≠ .idle) :
    ∃ m, n ≤ m ∧ (∀ k, n ≤ k → k ≤ m → (states k).rxPhase ≠ .idle) ∧ (states (m + 1)).rxPhase = .idle := by
  classical
  have hex := hfair.exists_idle n hc
  obtain ⟨hle, hidle⟩ := Nat.find_spec hex
  have hpos : Nat.find hex ≠ n := fun h => harmed (h ▸ hidle)
  obtain ⟨m, hm⟩ : ∃ m, Nat.find hex = m + 1 := Nat.exists_eq_succ_of_ne_zero (by omega)
  rw [hm] at hle hidle hpos
  exact ⟨m, by omega, fun k hk hkm h => Nat.find_min hex (by omega) ⟨hk, h⟩, hidle⟩

end FairRuns

/-- Settles O58: the decode's last step is RESET or one of its own, and `takesLeft` bounds the steps up to it. -/
theorem everyFairDecodeFinishes : Obligations.EveryFairDecodeFinishes := by
  intro events states n hfair hc harmed
  have hrun := Fair.isRun hfair
  obtain ⟨m, hm, hbefore, hidle⟩ := Fair.exists_last hfair hc harmed
  have hcount : ∀ k, k < m + 1 - n → (states (n + k)).rxPhase ≠ .idle := fun k hk => hbefore _ (by omega) (by omega)
  have htakes := countSteps_isTake_le hrun _ hc hcount
  have hbound := takesLeft_le (states n)
  refine ⟨m, hm, fun k hk hkm => armed_iff.2 (hbefore k hk hkm), by simpa [State.armed] using hidle, ?_, by omega,
    countSteps_isDecodeStep_le hrun _ hc hcount⟩
  by_cases hreset : events m = .reset
  · exact .inl ⟨hreset, (idle_of_isRun_reset hrun hreset).2⟩
  · right
    have harmed' := hbefore m hm (Nat.le_refl m)
    obtain ⟨q, r, f, ht, hnone, hpending, -⟩ :=
      eventStep_finishOf (s := { states m with schedule := [] }) (eventStep_of_isRun hrun m) hreset harmed' hidle
    have hresult : (states (m + 1)).rxResult = r := by rw [ht]; rfl
    rw [hresult]
    refine ⟨?_, hnone, hpending⟩
    obtain ⟨htake, -⟩ | ⟨-, hdec, -⟩ | ⟨-, hstill, -⟩ :=
      progress_of_isRun hrun (consistent_of_isRun hrun hc hm) harmed' hreset
    · exact isDecodeStep_of_isTake htake
    · exact hdec
    · exact absurd hidle hstill

/-- Settles O59: the decode ends, nothing arms the decoder again, and the next RX_STATUS reports IDLE. -/
theorem rxWaitEndsInEveryFairRun : Obligations.RxWaitEndsInEveryFairRun := by
  intro events states n hfair hc hhost hstatus
  have hrun := Fair.isRun hfair
  obtain ⟨p, hp, hidle⟩ := Fair.exists_idle hfair n hc
  have hstay : ∀ m, p ≤ m → (states m).rxPhase = .idle := fun m hm => by
    induction m, hm using Nat.le_induction with
    | base => exact hidle
    | succ m hm ih => exact eventStep_idle (eventStep_of_isRun hrun m) ih fun r => hhost m r (by omega)
  obtain ⟨k, hk, hev⟩ := hstatus p hp
  have hstep := eventStep_of_isRun hrun k
  rw [hev, Crc.eventStep_encode, FramerRx.exec_rxStatus] at hstep
  refine ⟨k, by omega, hev, (states k).rxResult.code, ?_⟩
  rw [← Host.Outcome.next.inj hstep]
  simp [hstay k hk, RxPhase.code]

end Sys2Proof.Proofs.Other
